-- ==== Sys2Proof/Word.lean ====
section
/-! DEFINITION. The word type of the CA-One CORE (spec/00_scope.md R7, R9, R10): every register, memory cell,
operand, address and ALU result is one unsigned byte, and byte arithmetic is modulo 256. -/

namespace Sys2Proof

/-- A byte, 0..255 (R7 `DATA_WIDTH`, R9). `BitVec 8` addition, subtraction and multiplication are those of R10:
the exact integer result reduced modulo 256. -/
abbrev Byte := BitVec 8

/-- An address is a byte (R7 `ADDR_WIDTH`; R34). -/
abbrev Addr := Byte

/-- A register id is a byte (R7 `NUM_GPR`; R15). -/
abbrev RegId := Byte

end Sys2Proof
end

