-- ==== Sys2Proof/Config.lean ====
section
/-! DEFINITION. The constants of the CA-One CORE: the parameters of spec/00_scope.md R7 that CA1 fixes and those of R8
that the spec decides. `MEM_INIT` is an argument (`State.launch`, Machine/Lifecycle.lean), not a constant;
`CLOCK_PERIOD` is read by no rule (R125) and has no place in the model. The opcode table, which R14 also counts as
configuration, is `opcodeTable` in Decode.lean. -/

namespace Sys2Proof.Config

/-- R7 `MEM_SIZE`: cells of memory. -/
def memSize : Nat := 256

/-- R7 `NUM_GPR`: general registers. -/
abbrev numGpr : Nat := 256

/-- R7 `SP_INDEX`: the general register that is SP (R18). -/
def spIndex : RegId := 0xFF#8

/-- R8 `CURREG_RESET` (the spec's decision D4; UNVERIFIED, log 5). -/
def curRegReset : RegId := 0x00#8

/-- R8 `MAR_RESET` (the spec's decision D5; UNVERIFIED, log 5). -/
def marReset : Byte := 0x00#8

/-- R8 `MDR_RESET` (the spec's decision D5; UNVERIFIED, log 5). -/
def mdrReset : Byte := 0x00#8

/-- R31, R118: the reset vector. -/
def resetVector : Addr := 0x00#8

/-- R31: the reset value of every general register, SP among them. -/
def gprReset : Byte := 0x00#8

/-- What a memory cell that the memory list does not name reads as. Every image is a list (one that names every cell
whose byte is another), so statements about all states cover every `MEM_INIT`; the value is visible only in
`State.reset` itself. DESIGN CHOICE, unsafe there, log 1. -/
def unlistedByte : Byte := 0x00#8

end Sys2Proof.Config
end

