-- ==== Sys2Proof/Syntax.lean ====
section
/-! DEFINITION. The instruction set of spec/30_encoding.md: the 14 opcodes of R58 and the instructions with their
operands. An operand is the whole raw operand byte (R55), in the order of R51. -/

namespace Sys2Proof

/-- The 14 opcodes of R58, in the table's order. JNE is none of them (R61). -/
inductive Opcode where
  | halt | init | set | save | mul | prn | ld | st | push | pop | add | jmp | jeq | cmp
deriving DecidableEq, Repr

/-- The instructions, one constructor per row of R58. -/
inductive Instr where
  /-- HALT, 0x00, format F1 (R97). -/
  | halt
  /-- INIT, 0x01, format F1 (R83). -/
  | init
  /-- SET `r`, 0x02, format F2R (R84). -/
  | set (r : RegId)
  /-- SAVE `imm`, 0x04, format F2I (R85). -/
  | save (imm : Byte)
  /-- MUL `r1`, `r2`, 0x05, format F3RR (R86). -/
  | mul (r1 r2 : RegId)
  /-- PRN, 0x06, format F1 (R99). -/
  | prn
  /-- LD `a`, 0x08, format F2A (R89). -/
  | ld (a : Addr)
  /-- ST `a`, 0x09, format F2A (R90). -/
  | st (a : Addr)
  /-- PUSH, 0x0A, format F1 (R92). -/
  | push
  /-- POP, 0x0B, format F1 (R93). -/
  | pop
  /-- ADD `r1`, `r2`, 0x0C, format F3RR (R87). -/
  | add (r1 r2 : RegId)
  /-- JMP `a`, 0x11, format F2A (R95). -/
  | jmp (a : Addr)
  /-- JEQ `a`, 0x13, format F2A (R96). -/
  | jeq (a : Addr)
  /-- CMP `r`, 0x16, format F2R (R88). -/
  | cmp (r : RegId)
deriving DecidableEq, Repr

/-- The opcode of an instruction (R51). -/
def Instr.opcode : Instr → Opcode
  | .halt => .halt
  | .init => .init
  | .set _ => .set
  | .save _ => .save
  | .mul _ _ => .mul
  | .prn => .prn
  | .ld _ => .ld
  | .st _ => .st
  | .push => .push
  | .pop => .pop
  | .add _ _ => .add
  | .jmp _ => .jmp
  | .jeq _ => .jeq
  | .cmp _ => .cmp

/-- The operand bytes of an instruction, first operand first (R51 to R54). -/
def Instr.operands : Instr → List Byte
  | .halt => []
  | .init => []
  | .set r => [r]
  | .save imm => [imm]
  | .mul r1 r2 => [r1, r2]
  | .prn => []
  | .ld a => [a]
  | .st a => [a]
  | .push => []
  | .pop => []
  | .add r1 r2 => [r1, r2]
  | .jmp a => [a]
  | .jeq a => [a]
  | .cmp r => [r]

end Sys2Proof
end

