-- ==== Sys2Proof/WellFormed.lean ====
section
/-! DEFINITION. Well-formedness. The CORE checks no operand (spec/30_encoding.md R56, R60), so every term of `Instr`
is a well-formed instruction and nothing here guards a step. What CA1 asks of well-formed PROGRAMS beyond that
(spec/10_state.md R27: no SET of 255) is a separate check, which the machine does not make. -/

namespace Sys2Proof

/-- R56, R60: every byte is a legal register id, immediate and address, and no encoding is reserved, so every
instruction is well formed. The operand types already hold exactly the bytes (log 14). -/
def Instr.wellFormed (_ : Instr) : Bool := true

/-- R27, R121 item 4: "255 is reserved for the stack pointer and should not be targeted by SET in well-formed programs —
not enforced by the simulator". A convention of programs; no definition of the machine reads it. -/
def Instr.keepsSetConvention : Instr → Bool
  | .set r => r != Config.spIndex
  | .halt => true
  | .init => true
  | .save _ => true
  | .mul _ _ => true
  | .prn => true
  | .ld _ => true
  | .st _ => true
  | .push => true
  | .pop => true
  | .add _ _ => true
  | .jmp _ => true
  | .jeq _ => true
  | .cmp _ => true

end Sys2Proof
end

