-- ==== Sys2Proof/Decode.lean ====
section
/-! DEFINITION. The opcode table of spec/30_encoding.md R58 and what is written from it: the dispatcher
(spec/40_sequencer.md R68), the decoder on bytes, total and rejecting by name, the encoder, and the reading of an
opcode-table word. -/

namespace Sys2Proof

/-- One row of R58: the opcode byte (all 8 bits compared, mask 0xFF), its instruction, and the width in bytes. -/
structure OpcodeRow where
  byte : Byte
  op : Opcode
  width : Nat
deriving DecidableEq, Repr

/-- The opcode map, R58, row by row. -/
def opcodeTable : List OpcodeRow :=
  [ ⟨0x00#8, .halt, 1⟩,
    ⟨0x01#8, .init, 1⟩,
    ⟨0x02#8, .set, 2⟩,
    ⟨0x04#8, .save, 2⟩,
    ⟨0x05#8, .mul, 3⟩,
    ⟨0x06#8, .prn, 1⟩,
    ⟨0x08#8, .ld, 2⟩,
    ⟨0x09#8, .st, 2⟩,
    ⟨0x0A#8, .push, 1⟩,
    ⟨0x0B#8, .pop, 1⟩,
    ⟨0x0C#8, .add, 3⟩,
    ⟨0x11#8, .jmp, 2⟩,
    ⟨0x13#8, .jeq, 2⟩,
    ⟨0x16#8, .cmp, 2⟩ ]

/-- `Dispatch(op)` of R68: the row's instruction, and `none` for the 242 bytes of R59. It reads nothing but `op`. -/
def dispatch (op : Byte) : Option Opcode :=
  (opcodeTable.find? (fun row => row.byte == op)).map (·.op)

/-- The opcode byte of R58. -/
def Opcode.byte : Opcode → Byte
  | .halt => 0x00#8
  | .init => 0x01#8
  | .set => 0x02#8
  | .save => 0x04#8
  | .mul => 0x05#8
  | .prn => 0x06#8
  | .ld => 0x08#8
  | .st => 0x09#8
  | .push => 0x0A#8
  | .pop => 0x0B#8
  | .add => 0x0C#8
  | .jmp => 0x11#8
  | .jeq => 0x13#8
  | .cmp => 0x16#8

/-- The width of R58 in bytes, the opcode among them; it depends on the opcode alone (R57). -/
def Opcode.width : Opcode → Nat
  | .halt => 1
  | .init => 1
  | .set => 2
  | .save => 2
  | .mul => 3
  | .prn => 1
  | .ld => 2
  | .st => 2
  | .push => 1
  | .pop => 1
  | .add => 3
  | .jmp => 2
  | .jeq => 2
  | .cmp => 2

/-- Why bytes are not an instruction. -/
inductive Rejection where
  /-- There is no byte to decode. A fetch always has one (R34). -/
  | noBytes
  /-- The first byte has no row in R58: an illegal opcode (R59). The tick then takes DecodeError (R102). -/
  | illegalOpcode (op : Byte)
  /-- The bytes end before the operands of this opcode. A fetch never ends: its addresses wrap (R40). -/
  | missingOperand (op : Byte)
deriving DecidableEq, Repr

/-- The instruction with opcode `o` whose operand bytes begin the list, with the bytes after it (R57: width minus one
operand bytes, "never beyond"). -/
def readOperands : Opcode → List Byte → Option (Instr × List Byte)
  | .halt, bs => some (.halt, bs)
  | .init, bs => some (.init, bs)
  | .set, r :: bs => some (.set r, bs)
  | .set, [] => none
  | .save, imm :: bs => some (.save imm, bs)
  | .save, [] => none
  | .mul, r1 :: r2 :: bs => some (.mul r1 r2, bs)
  | .mul, _ => none
  | .prn, bs => some (.prn, bs)
  | .ld, a :: bs => some (.ld a, bs)
  | .ld, [] => none
  | .st, a :: bs => some (.st a, bs)
  | .st, [] => none
  | .push, bs => some (.push, bs)
  | .pop, bs => some (.pop, bs)
  | .add, r1 :: r2 :: bs => some (.add r1 r2, bs)
  | .add, _ => none
  | .jmp, a :: bs => some (.jmp a, bs)
  | .jmp, [] => none
  | .jeq, a :: bs => some (.jeq a, bs)
  | .jeq, [] => none
  | .cmp, r :: bs => some (.cmp r, bs)
  | .cmp, [] => none

/-- The decoder: the instruction that begins a list of bytes and the bytes after it, or the name of the rejection
(R51, R57, R59). -/
def decode : List Byte → Except Rejection (Instr × List Byte)
  | [] => .error .noBytes
  | op :: bs =>
    match dispatch op with
    | none => .error (.illegalOpcode op)
    | some o =>
      match readOperands o bs with
      | none => .error (.missingOperand op)
      | some r => .ok r

/-- The encoder: "the opcode byte of rule R58 followed by its operand bytes" (R62, R51). -/
def encode (i : Instr) : List Byte := i.opcode.byte :: i.operands

/-- The three bytes of an opcode-table word of `nbits` bits: bit 0 is the least significant bit of the first byte, and
every bit at or above `nbits` is 0. The longest instruction has three bytes (R7). -/
def tableWordBytes (nbits w : Nat) : List Byte :=
  let v := w % 2 ^ nbits
  [BitVec.ofNat 8 v, BitVec.ofNat 8 (v / 2 ^ 8), BitVec.ofNat 8 (v / 2 ^ 16)]

/-- What the decoder reads from an opcode-table word. -/
def decodeTableWord (nbits w : Nat) : Option Instr :=
  match decode (tableWordBytes nbits w) with
  | .ok (i, _) => some i
  | .error _ => none

end Sys2Proof
end

