-- ==== Sys2Proof/Machine/State.lean ====
section
/-! DEFINITION. The state of the CA-One CORE (spec/10_state.md R13), its reset value (R31), and the two ways a step can
stop. -/

namespace Sys2Proof.Machine

/-- The memory array of R33, as the cells whose byte is not `Config.unlistedByte`: (address, byte) pairs, addresses
strictly rising. `Memory.wf` (Ops.lean) says the form holds. -/
abbrev Memory := List Host.Cell

/-- The clock state machine of R29. -/
inductive RunState where
  | running
  | halted
deriving DecidableEq, Repr

/-- What DecodeError records (R30, R101): the offending byte and the address it was fetched from. -/
structure DecodeError where
  opcode : Byte
  pc : Addr
deriving DecidableEq, Repr

/-- The events the observation channel receives (R4, R100). -/
inductive Event where
  /-- `Out(v)`, from PRN (R99). -/
  | out (v : Byte)
  /-- `Err(opcode, pc)`, from DecodeError (R102). -/
  | err (opcode : Byte) (pc : Addr)
deriving DecidableEq, Repr

/-- The state: R13's tuple under its own names, and beside it the record of the observation channel. SP has no field:
it is `x[255]` (R18). -/
structure State where
  /-- The memory array, 256 cells (R33). -/
  mem : Memory
  /-- The 256 general registers (R15); `x[255]` is SP (R18). -/
  x : Vector Byte Config.numGpr
  /-- The program counter (R20). -/
  pc : Addr
  /-- The memory address register (R24). -/
  mar : Byte
  /-- The memory data register (R24). -/
  mdr : Byte
  /-- curReg, the current-register selector (R26). -/
  cur : RegId
  /-- Flags.equal, the one flag (R28). -/
  eq : Bool
  /-- The clock state machine (R29). -/
  run : RunState
  /-- The fault latch (R30). -/
  fault : Option DecodeError
  /-- The events the observation channel has received, oldest first. R13: the channel is outside the CORE, and "a model
  records the events it receives as a sequence beside the state". DESIGN CHOICE, safe, log 2. -/
  events : List Event
deriving DecidableEq, Repr

/-- Faults that stop the machine without a next state: there are none. DecodeError, the only exception (R101, R103), has
its whole effect given by R102, so a tick that takes it answers a next state (log 4). No instruction raises a fault;
that is safe, since a claim "it does not fault" then says only what R103 says. -/
inductive Fault where
deriving DecidableEq, Repr

/-- Refusals: instructions without a meaning. -/
inductive Refusal where
  /-- Raised by an arm of `exec` whose instruction has no meaning yet. Safe: no next state is claimed. Every arm has its
  meaning, so no instruction raises it. -/
  | notModelled (mnemonic : String)
deriving DecidableEq, Repr

/-- The outcome of one step of this machine. -/
abbrev Result := Host.Outcome State Fault Refusal

/-- The machine right after reset (R31, R118): `run` RUNNING, `pc` the reset vector, every register 0, `eq` false, `cur`,
`mar` and `mdr` 0, `fault` none. Memory lists nothing (R31: `MEM_INIT` is open; log 1) and no event has been emitted
(R119; log 2). -/
def State.reset : State where
  mem := []
  x := Vector.replicate Config.numGpr Config.gprReset
  pc := Config.resetVector
  mar := Config.marReset
  mdr := Config.mdrReset
  cur := Config.curRegReset
  eq := false
  run := .running
  fault := none
  events := []

end Sys2Proof.Machine
end

