-- ==== Sys2Proof/Machine/Ops.lean ====
section
/-! DEFINITION. The named operations over memory and registers that every instruction is written with
(spec/00_scope.md R11; spec/10_state.md; spec/20_memory.md), taking DecodeError (spec/60_exceptions.md R102), and what
the host does to the state (R115, R118). -/

namespace Sys2Proof.Machine

/-! ### Memory (R33 to R37) -/

/-- The canonical form of a memory list: addresses strictly rising, every one of them a cell of R33, and no cell listed
that an unlisted one would read alike. -/
abbrev Memory.wf (m : Memory) : Prop :=
  m.Pairwise (fun c d => c.1 < d.1) ∧ ∀ c ∈ m, c.1 < Config.memSize ∧ c.2 ≠ Config.unlistedByte

/-- The byte listed for a cell number. -/
def Memory.lookup : Memory → Nat → Byte
  | [], _ => Config.unlistedByte
  | (k, v) :: rest, a => if k = a then v else Memory.lookup rest a

/-- `MemRead(addr, 1)`, R36: every address has its cell (R34). -/
def Memory.read (m : Memory) (a : Addr) : Byte := m.lookup a.toNat

/-- A cell put in its place among cells of other addresses. -/
def Memory.insertCell : Memory → Host.Cell → Memory
  | [], c => [c]
  | d :: rest, c => if c.1 < d.1 then c :: d :: rest else d :: Memory.insertCell rest c

/-- The cells but the one at address `k`. -/
def Memory.eraseCell (m : Memory) (k : Nat) : Memory := m.filter (fun c => c.1 != k)

/-- `MemWrite(addr, 1, v)`, R37. Writing what an unlisted cell reads as leaves the cell unlisted. -/
def Memory.write (m : Memory) (a : Addr) (v : Byte) : Memory :=
  if v = Config.unlistedByte then m.eraseCell a.toNat
  else (m.eraseCell a.toNat).insertCell (a.toNat, v)

namespace State

/-! ### Registers (R15, R18, R20, R26, R28, R29) -/

/-- Read general register `r`: `get(regId)` of R15, `x[i]` of R11. -/
def getReg (s : State) (r : RegId) : Byte := s.x[r.toNat]'r.isLt

/-- Write general register `r`: `set(regId, byte)` of R15, `x[i] <- v` of R11. None is hardwired. -/
def setReg (s : State) (r : RegId) (v : Byte) : State := { s with x := s.x.set r.toNat v r.isLt }

/-- SP is general register 255 (R18). -/
def sp (s : State) : Byte := s.getReg Config.spIndex

/-- `x[cur]`, the register the selector names (R26). -/
def getCur (s : State) : Byte := s.getReg s.cur

/-- `x[cur] <- v` (R26). -/
def setCurReg (s : State) (v : Byte) : State := s.setReg s.cur v

/-- `cur <- r` (R26), written only by INIT and SET. -/
def select (s : State) (r : RegId) : State := { s with cur := r }

/-- `pc <- target` (R11). -/
def jumpTo (s : State) (target : Addr) : State := { s with pc := target }

/-- `pc <- (pc + width) mod 256` (R22, R70). -/
def advance (s : State) (width : Nat) : State := { s with pc := s.pc + BitVec.ofNat 8 width }

/-- `eq <- b` (R28). -/
def setEq (s : State) (b : Bool) : State := { s with eq := b }

/-- `run <- HALTED` (R29). -/
def halt (s : State) : State := { s with run := .halted }

/-- Append an event to the observation channel's record (R11 `emit`, R100). -/
def emit (s : State) (e : Event) : State := { s with events := s.events ++ [e] }

/-! ### Memory through MAR and MDR (R38, R39) -/

/-- `Load(a)`, R38: `mar <- a; mdr <- MemRead(mar, 1)`. Its value is the new `mdr`. -/
def load (s : State) (a : Addr) : State := { s with mar := a, mdr := s.mem.read a }

/-- `Store(a, v)`, R39: `mar <- a; mdr <- v; MemWrite(mar, 1, mdr)`. -/
def store (s : State) (a : Addr) (v : Byte) : State := { s with mar := a, mdr := v, mem := s.mem.write a v }

/-! ### Fetch (R67) -/

/-- The opcode fetch, R67: `mar <- pc; mdr <- MemRead(mar, 1)`, nothing else. -/
def fetch (s : State) : State := s.load s.pc

/-- The bytes an instruction at `pc` can have: its opcode and up to two operand bytes, at `pc`, `pc + 1` and `pc + 2`
modulo 256 (R40, R51). Reading has no side effect (R36, R43); the decoder uses the first ones only, as many as the
opcode's width. DEDUCED, safe, log 3. -/
def instrBytes (s : State) : List Byte :=
  [s.mem.read s.pc, s.mem.read (s.pc + 1#8), s.mem.read (s.pc + 2#8)]

/-! ### The one exception (R101, R102) -/

/-- `raise DecodeError(op, pc)`, R102: latch the two values, halt, report. Nothing else changes; there is no return from
it (R107). -/
def raiseDecodeError (s : State) (op : Byte) (pc : Addr) : State :=
  (({ s with fault := some ⟨op, pc⟩ } : State).halt).emit (.err op pc)

/-! ### The host between ticks (R115, R118) -/

/-- `HostWrite(addr, byte)`, R115: one memory cell, not through MAR and MDR (R39). -/
def hostWrite (s : State) (a : Addr) (v : Byte) : State := { s with mem := s.mem.write a v }

/-- `Reset`, R118: every field but memory to its reset value (R31). Memory is unchanged and no event is emitted (R119),
so the record of the channel stays as it is. -/
def hostReset (s : State) : State := { State.reset with mem := s.mem, events := s.events }

/-- Bytes written by the host at consecutive addresses, from `a` upward modulo 256: the loader of R115. -/
def hostWriteBytes (s : State) (a : Addr) : List Byte → State
  | [] => s
  | v :: vs => (s.hostWrite a v).hostWriteBytes (a + 1#8) vs

/-- The bytes of an instruction placed where the next tick fetches it, on a CORE that runs. -/
def placeInstruction (s : State) (bytes : List Byte) : State :=
  { s.hostWriteBytes s.pc bytes with run := .running }

end State

end Sys2Proof.Machine
end

