-- ==== Sys2Proof/Machine/Operands.lean ====
section
/-! DEFINITION. The operand forms: how an operand byte reaches its handler (spec/30_encoding.md R51 to R55;
spec/40_sequencer.md R69), and the registers the ALU's in-place operations reach (spec/41_alu.md R78). -/

namespace Sys2Proof.Machine

namespace State

/-- Operand byte `k` of the instruction at `pc` arrives through MAR and MDR: `Load((pc + k) mod 256)` of R69. `b` is that
byte: the decoder has read it from the cell `(pc + k) mod 256`, so this is the `Load` of R38 whenever memory holds the
instruction at `pc`, as it does in every tick. DEDUCED, safe, log 3. -/
def operandLoad (s : State) (k : Nat) (b : Byte) : State :=
  { s with mar := s.pc + BitVec.ofNat 8 k, mdr := b }

/-- Formats F2R, F2I and F2A (R53): one operand byte. -/
def operand1 (s : State) (b : Byte) : State := s.operandLoad 1 b

/-- Format F3RR (R54): two operand bytes, read in order (R69). -/
def operands2 (s : State) (b1 b2 : Byte) : State := (s.operandLoad 1 b1).operandLoad 2 b2

end State

/-- What `ALU.INC` and `ALU.DEC` act on: "a general register or a special register" (R78). SP is a general register
(R18). -/
inductive RegOrSpecial where
  | general (r : RegId)
  | pc
  | mar
  | mdr
deriving DecidableEq, Repr

namespace State

/-- Read a general or special register. -/
def getTarget (s : State) : RegOrSpecial → Byte
  | .general r => s.getReg r
  | .pc => s.pc
  | .mar => s.mar
  | .mdr => s.mdr

/-- Write a general or special register. -/
def setTarget (s : State) : RegOrSpecial → Byte → State
  | .general r, v => s.setReg r v
  | .pc, v => { s with pc := v }
  | .mar, v => { s with mar := v }
  | .mdr, v => { s with mdr := v }

end State

end Sys2Proof.Machine
end

