-- ==== Sys2Proof/Machine/Flags.lean ====
section
/-! DEFINITION. The one flag computation (spec/10_state.md R28; spec/41_alu.md R80). No other flag exists: ADD, MUL, INC
and DEC wrap without recording it (R81). -/

namespace Sys2Proof.Machine

/-- `Flags.equal = (get(regA) == get(regB))`, of two bytes as unsigned integers (R80). -/
def equalFlag (a b : Byte) : Bool := a.toNat == b.toNat

end Sys2Proof.Machine
end

