-- ==== Sys2Proof/Machine/Alu.lean ====
section
/-! DEFINITION. The ALU (spec/41_alu.md R75 to R82): stateless operations over the register file. -/

namespace Sys2Proof.Machine.State

/-- `ALU.ADD(a, b)`, R76: `(x[a] + x[b]) mod 256`; the caller stores it. -/
def aluAdd (s : State) (a b : RegId) : Byte := s.getReg a + s.getReg b

/-- `ALU.MUL(a, b)`, R77: `(x[a] * x[b]) mod 256`; the high byte is recorded nowhere. -/
def aluMul (s : State) (a b : RegId) : Byte := s.getReg a * s.getReg b

/-- `ALU.INC(t)`, R78: `t <- (t + 1) mod 256`. -/
def aluInc (s : State) (t : RegOrSpecial) : State := s.setTarget t (s.getTarget t + 1#8)

/-- `ALU.DEC(t)`, R79: `t <- (t - 1) mod 256`. -/
def aluDec (s : State) (t : RegOrSpecial) : State := s.setTarget t (s.getTarget t - 1#8)

/-- `ALU.CMP(a, b)`, R80: `eq <- (x[a] == x[b])`, nothing else. -/
def aluCmp (s : State) (a b : RegId) : State := s.setEq (equalFlag (s.getReg a) (s.getReg b))

/-- SP as a target of `ALU.INC` and `ALU.DEC`: PUSH's and POP's updates (R73, R82). -/
def spTarget : RegOrSpecial := .general Config.spIndex

end Sys2Proof.Machine.State
end

