-- ==== Sys2Proof/Machine/Access.lean ====
section
/-! DEFINITION. Loads and stores (spec/44_memory_access.md): LD, ST. The operand byte is the effective address. -/

namespace Sys2Proof.Machine

/-- LD `a`, R89: `a <- Load((pc + 1) mod 256); v <- Load(a); x[cur] <- v; pc <- (pc + 2) mod 256`. -/
def execLd (a : Addr) (s : State) : Result :=
  let s := (s.operand1 a).load a
  .next ((s.setCurReg s.mdr).advance 2)

/-- ST `a`, R90: `a <- Load((pc + 1) mod 256); Store(a, x[cur]); pc <- (pc + 2) mod 256`. -/
def execSt (a : Addr) (s : State) : Result :=
  let s := s.operand1 a
  .next ((s.store a s.getCur).advance 2)

end Sys2Proof.Machine
end

