-- ==== Sys2Proof/Machine/Arithmetic.lean ====
section
/-! DEFINITION. Arithmetic and compare (spec/43_arithmetic.md): MUL, ADD, CMP. Operand registers are read before
`x[cur]` is written. -/

namespace Sys2Proof.Machine

/-- MUL `r1`, `r2`, R86: two operand `Load`s; `x[cur] <- ALU.MUL(r1, r2); pc <- (pc + 3) mod 256`. No flag. -/
def execMul (r1 r2 : RegId) (s : State) : Result :=
  let s := s.operands2 r1 r2
  .next ((s.setCurReg (s.aluMul r1 r2)).advance 3)

/-- ADD `r1`, `r2`, R87: two operand `Load`s; `x[cur] <- ALU.ADD(r1, r2); pc <- (pc + 3) mod 256`. No flag. -/
def execAdd (r1 r2 : RegId) (s : State) : Result :=
  let s := s.operands2 r1 r2
  .next ((s.setCurReg (s.aluAdd r1 r2)).advance 3)

/-- CMP `r`, R88: `r <- Load((pc + 1) mod 256); ALU.CMP(cur, r); pc <- (pc + 2) mod 256`. -/
def execCmp (r : RegId) (s : State) : Result :=
  let s := s.operand1 r
  .next ((s.aluCmp s.cur r).advance 2)

end Sys2Proof.Machine
end

