-- ==== Sys2Proof/Machine/Control.lean ====
section
/-! DEFINITION. Control transfer and halt (spec/46_control.md): JMP, JEQ, HALT. -/

namespace Sys2Proof.Machine

/-- JMP `a`, R95: `a <- Load((pc + 1) mod 256); pc <- a`. Every target is legal (R98). -/
def execJmp (a : Addr) (s : State) : Result :=
  .next ((s.operand1 a).jumpTo a)

/-- JEQ `a`, R96: `a <- Load((pc + 1) mod 256); if eq then pc <- a else pc <- (pc + 2) mod 256`. The operand is read
whether or not the branch is taken. -/
def execJeq (a : Addr) (s : State) : Result :=
  let s := s.operand1 a
  .next (s.jumpTo (if s.eq then a else s.pc + 2#8))

/-- HALT, R97: `run <- HALTED`; `pc` is not written and `fault` stays as it is. -/
def execHalt (s : State) : Result :=
  .next s.halt

end Sys2Proof.Machine
end

