-- ==== Sys2Proof/Machine/Output.lean ====
section
/-! DEFINITION. Output (spec/47_output.md): PRN. -/

namespace Sys2Proof.Machine

/-- PRN, R99: `emit Out(x[cur]); pc <- (pc + 1) mod 256`. -/
def execPrn (s : State) : Result :=
  .next ((s.emit (.out s.getCur)).advance 1)

end Sys2Proof.Machine
end

