-- ==== Sys2Proof/Machine/Selector.lean ====
section
/-! DEFINITION. Register selection and immediate load (spec/42_selector.md): INIT, SET, SAVE. Each meaning starts from the
state after the fetch (R67), with `pc` the opcode's address. -/

namespace Sys2Proof.Machine

/-- INIT, R83: `cur <- 0; pc <- (pc + 1) mod 256`. MAR and MDR keep their fetch values. -/
def execInit (s : State) : Result :=
  .next ((s.select 0x00#8).advance 1)

/-- SET `r`, R84: `r <- Load((pc + 1) mod 256); cur <- r; pc <- (pc + 2) mod 256`. Every `r` is legal, 255 too (R27). -/
def execSet (r : RegId) (s : State) : Result :=
  .next (((s.operand1 r).select r).advance 2)

/-- SAVE `imm`, R85: `imm <- Load((pc + 1) mod 256); x[cur] <- imm; pc <- (pc + 2) mod 256`. -/
def execSave (imm : Byte) (s : State) : Result :=
  .next (((s.operand1 imm).setCurReg imm).advance 2)

end Sys2Proof.Machine
end

