-- ==== Sys2Proof/Machine/Stack.lean ====
section
/-! DEFINITION. The stack (spec/45_stack.md): PUSH, POP. The order of the statements is part of the semantics (R12). -/

namespace Sys2Proof.Machine

/-- PUSH, R92: `sp <- (sp - 1) mod 256; Store(sp, x[cur]); pc <- (pc + 1) mod 256`. With `cur = 255` the byte stored is
the already decremented SP. -/
def execPush (s : State) : Result :=
  let s := s.aluDec State.spTarget
  .next ((s.store s.sp s.getCur).advance 1)

/-- POP, R93: `v <- Load(sp); x[cur] <- v; sp <- (sp + 1) mod 256; pc <- (pc + 1) mod 256`. With `cur = 255` SP ends at
`(v + 1) mod 256`. -/
def execPop (s : State) : Result :=
  let s := s.load s.sp
  .next (((s.setCurReg s.mdr).aluInc State.spTarget).advance 1)

end Sys2Proof.Machine
end

