-- ==== Sys2Proof/Machine/Dispatch.lean ====
section
/-! DEFINITION. One arm per instruction, in the order of the opcode table (spec/40_sequencer.md R68, R69). -/

namespace Sys2Proof.Machine

def exec (i : Instr) (s : State) : Host.Outcome State Fault Refusal :=
  match i with
  | .halt => Sys2Proof.Machine.execHalt s
  | .init => Sys2Proof.Machine.execInit s
  | .set r => Sys2Proof.Machine.execSet r s
  | .save imm => Sys2Proof.Machine.execSave imm s
  | .mul r1 r2 => Sys2Proof.Machine.execMul r1 r2 s
  | .prn => Sys2Proof.Machine.execPrn s
  | .ld a => Sys2Proof.Machine.execLd a s
  | .st a => Sys2Proof.Machine.execSt a s
  | .push => Sys2Proof.Machine.execPush s
  | .pop => Sys2Proof.Machine.execPop s
  | .add r1 r2 => Sys2Proof.Machine.execAdd r1 r2 s
  | .jmp a => Sys2Proof.Machine.execJmp a s
  | .jeq a => Sys2Proof.Machine.execJeq a s
  | .cmp r => Sys2Proof.Machine.execCmp r s

end Sys2Proof.Machine
end

