-- ==== Sys2Proof/Machine/Tick.lean ====
section
/-! DEFINITION. The tick (spec/40_sequencer.md R64 to R70): fetch, decode, execute and advance. -/

namespace Sys2Proof.Machine

/-- A tick while RUNNING, R66: fetch through MAR and MDR, dispatch on the fetched byte, and then either DecodeError or the
handler. A handler advances the pc itself (R70). The bytes of `instrBytes` never run out, so the one rejection that
can occur is an illegal opcode, the byte in `mdr`. -/
def runningTick (s : State) : Result :=
  let f := s.fetch
  match decode s.instrBytes with
  | .ok (i, _) => exec i f
  | .error _ => .next (f.raiseDecodeError f.mdr f.pc)

/-- A tick, R64 to R66: while HALTED it changes nothing. -/
def tick (s : State) : Result :=
  match s.run with
  | .halted => .next s
  | .running => runningTick s

end Sys2Proof.Machine
end

