-- ==== Sys2Proof/Machine/Step.lean ====
section
/-! DEFINITION. One step of the machine, and the placing of an instruction where the next step fetches it. -/

namespace Sys2Proof.Machine

/-- One step is one `Tick` (spec/40_sequencer.md R64): one whole instruction, or one DecodeError, or nothing while
HALTED. It never faults and, with a meaning in every arm, never refuses. -/
def step (s : State) : Host.Outcome State Fault Refusal := tick s

/-- The instruction of an opcode-table word stored at `pc`, where the next tick fetches it, on a running CORE (a HALTED
one fetches nothing, R65). It stands for the loader's `HostWrite`s (R115); log 6. -/
def State.withFetchWord (s : State) (nbits w : Nat) : State := s.placeInstruction (tableWordBytes nbits w)

end Sys2Proof.Machine
end

