-- ==== Sys2Proof/Machine/Lifecycle.lean ====
section
/-! DEFINITION. The host's interface (spec/00_scope.md R4; spec/60_exceptions.md R115 to R117; spec/70_reset_and_hazards.md
R118 to R120): what the host can do to the CORE, and the launch state. `start()` and `stop()` change no state (R116), so
they are no transition: they say when the host issues `Tick`. -/

namespace Sys2Proof.Machine

/-- The events the host issues, each between ticks (R117). There is no other: the host writes no register. -/
inductive HostEvent where
  /-- `Reset` (R118). -/
  | reset
  /-- `HostWrite(addr, byte)` (R115). -/
  | hostWrite (a : Addr) (v : Byte)
  /-- `Tick` (R64). -/
  | tick
deriving DecidableEq, Repr

/-- One host event. `Reset` and `HostWrite` act in any run state (R115, R118). -/
def transact : HostEvent → State → Result
  | .reset, s => .next s.hostReset
  | .hostWrite a v, s => .next (s.hostWrite a v)
  | .tick, s => step s

/-- Host events in order, stopping where one has no next state. -/
def transactAll : List HostEvent → State → Result
  | [], s => .next s
  | e :: es, s =>
    match transact e s with
    | .next t => transactAll es t
    | .fault r => .fault r
    | .refused r => .refused r

/-- The launch state, R120: the state after `Reset` with memory equal to the launch image `MEM_INIT`, all 256 bytes of it
an argument, written by the loader from address 0 up. -/
def State.launch (memInit : Vector Byte 256) : State := State.reset.hostWriteBytes 0x00#8 memInit.toList

end Sys2Proof.Machine
end

