-- ==== Sys2Proof/Machine/Micro.lean ====
section
/-! DEFINITION. The tick of spec/40_sequencer.md R66 written once more, byte by byte and micro-operation by
micro-operation, as the pseudocode of R83 to R102 stands: it dispatches on the fetched byte itself and reads each operand
from memory with `Load`, knows no decoder and no `Instr`. It is not the machine (`step` is); the statement that the two
agree says that decoding and the operand forms lose nothing of the pseudocode. -/

namespace Sys2Proof.Machine

/-- The execute step of R69 for the opcode byte `op`, from the state after the fetch. -/
def microExecute (op : Byte) (s : State) : State :=
  let first := s.load (s.pc + 1#8)
  let second := first.load (s.pc + 2#8)
  if op = 0x00#8 then { s with run := .halted }
  else if op = 0x01#8 then { s with cur := 0x00#8, pc := s.pc + 1#8 }
  else if op = 0x02#8 then { first with cur := first.mdr, pc := s.pc + 2#8 }
  else if op = 0x04#8 then { first.setReg s.cur first.mdr with pc := s.pc + 2#8 }
  else if op = 0x05#8 then
    { second.setReg s.cur (s.getReg first.mdr * s.getReg second.mdr) with pc := s.pc + 3#8 }
  else if op = 0x06#8 then { s with events := s.events ++ [.out (s.getReg s.cur)], pc := s.pc + 1#8 }
  else if op = 0x08#8 then
    let data := first.load first.mdr
    { data.setReg s.cur data.mdr with pc := s.pc + 2#8 }
  else if op = 0x09#8 then { first.store first.mdr (s.getReg s.cur) with pc := s.pc + 2#8 }
  else if op = 0x0A#8 then
    let dec := s.setReg 0xFF#8 (s.getReg 0xFF#8 - 1#8)
    { dec.store (dec.getReg 0xFF#8) (dec.getReg dec.cur) with pc := s.pc + 1#8 }
  else if op = 0x0B#8 then
    let top := s.load (s.getReg 0xFF#8)
    let got := top.setReg s.cur top.mdr
    { got.setReg 0xFF#8 (got.getReg 0xFF#8 + 1#8) with pc := s.pc + 1#8 }
  else if op = 0x0C#8 then
    { second.setReg s.cur (s.getReg first.mdr + s.getReg second.mdr) with pc := s.pc + 3#8 }
  else if op = 0x11#8 then { first with pc := first.mdr }
  else if op = 0x13#8 then { first with pc := if s.eq then first.mdr else s.pc + 2#8 }
  else if op = 0x16#8 then
    { first with eq := s.getReg s.cur == s.getReg first.mdr, pc := s.pc + 2#8 }
  else
    { s with fault := some ⟨op, s.pc⟩, run := .halted, events := s.events ++ [.err op s.pc] }

/-- The tick of R66. -/
def microTick (s : State) : State :=
  match s.run with
  | .halted => s
  | .running =>
    let f := s.load s.pc
    microExecute f.mdr f

end Sys2Proof.Machine
end

