-- ==== Sys2Proof/Safety.lean ====
section
/-! DEFINITION. The terms in which claims are made: the ends of a run (spec/40_sequencer.md R74), what a frame leaves
unchanged, the invariant of the machine, and the sequences of instructions of the stack law (spec/45_stack.md R94). -/

namespace Sys2Proof.Machine

/-! ### The ends of a run (R74, R30) -/

/-- A run has ended at the first state with `run = HALTED` (R74). -/
def State.ended (s : State) : Prop := s.run = .halted

/-- It ended normally: by HALT (R30, R74). -/
def State.endedNormally (s : State) : Prop := s.run = .halted ∧ s.fault = none

/-- It ended fatally: by DecodeError of byte `op` at address `p` (R30, R74). -/
def State.endedFatally (s : State) (op : Byte) (p : Addr) : Prop := s.run = .halted ∧ s.fault = some ⟨op, p⟩

/-- `k` ticks issued by the host, one after the other (R116). -/
def ticks (k : Nat) (s : State) : Result := transactAll (List.replicate k .tick) s

/-! ### Frames -/

/-- Every general register outside the list reads in `t` as in `s`. -/
def RegsKeptBut (written : List RegId) (s t : State) : Prop := ∀ r, r ∉ written → t.getReg r = s.getReg r

/-- Every byte of memory outside the list reads in `t` as in `s`. -/
def MemKeptBut (stored : List Addr) (s t : State) : Prop := ∀ a, a ∉ stored → t.mem.read a = s.mem.read a

/-- MAR and MDR are as before. -/
def MarMdrKept (s t : State) : Prop := t.mar = s.mar ∧ t.mdr = s.mdr

/-! ### The invariant -/

/-- What holds of every state the CORE reaches, whatever memory was launched and whatever the host did between ticks. -/
structure CoreInv (s : State) : Prop where
  /-- Memory keeps its canonical form, within the 256 cells of R33. -/
  memCanonical : s.mem.wf
  /-- The fault latch is set only by DecodeError (R30, R102): the CORE is HALTED, the latch holds an illegal byte (R59)
  and the address the pc still has, MAR and MDR are those of the fetch, and the last event is its report. -/
  latched : ∀ d, s.fault = some d → s.run = .halted ∧ s.pc = d.pc ∧ s.mar = d.pc ∧ s.mdr = d.opcode ∧
    dispatch d.opcode = none ∧ s.events.getLast? = some (.err d.opcode d.pc)
  /-- A normal end is by HALT (R30, R97): the pc is at the HALT byte, and MAR and MDR are those of its fetch. -/
  haltedNormally : s.endedNormally → s.mar = s.pc ∧ s.mdr = 0x00#8

/-! ### Sequences of instructions, executed one after the other -/

/-- The meanings of a list of instructions in order, stopping where one has no next state. Nothing is fetched: it is what
straight-line code does whose bytes no store of its own overwrites. -/
def execAll : List Instr → State → Result
  | [], s => .next s
  | i :: is, s =>
    match exec i s with
    | .next t => execAll is t
    | .fault r => .fault r
    | .refused r => .refused r

/-- PUSHes of the registers named, in order, each selected by SET. -/
def pushAll (rs : List RegId) : List Instr := rs.flatMap (fun r => [.set r, .push])

/-- POPs into the registers named, in order, each selected by SET and then printed: the events show the values popped. -/
def popAllPrinting (rs : List RegId) : List Instr := rs.flatMap (fun r => [.set r, .pop, .prn])

end Sys2Proof.Machine
end

