-- ==== Sys2Proof/Certificates/Slice0/Obligations.lean ====
section
/-! DEFINITION. The statements for the provers. Each docstring names the rule of spec/ it formalises; where a clause rests on a
decision or an inference that the spec marks as its own, or on a choice of the model, it says so and names the log. -/

open Sys2Proof Sys2Proof.Machine

/-! ### Encoding -/

/-- R51 to R54, R57, R58: bytes decode to an instruction, with every operand, exactly when they begin with its encoding, and
what is left is what follows it. So decoding an encoded instruction gives it back, and each word has one meaning. Every
instruction is well formed (R56; log 14). -/
def Obligations.DecodingAgreesWithEncoding : Prop :=
  ∀ (bs rest : List Byte) (i : Instr), i.wellFormed = true ∧ (decode bs = .ok (i, rest) ↔ bs = encode i ++ rest)

/-- R58: words written out from the opcode map, one per instruction, decode to the instructions they stand for. -/
def Obligations.OpcodeMapWordsDecode : Prop :=
  decode [0x00#8] = .ok (.halt, []) ∧ decode [0x01#8] = .ok (.init, []) ∧
  decode [0x02#8, 0x05#8] = .ok (.set 0x05#8, []) ∧ decode [0x04#8, 0x2A#8] = .ok (.save 0x2A#8, []) ∧
  decode [0x05#8, 0x00#8, 0x01#8] = .ok (.mul 0x00#8 0x01#8, []) ∧ decode [0x06#8] = .ok (.prn, []) ∧
  decode [0x08#8, 0x80#8] = .ok (.ld 0x80#8, []) ∧ decode [0x09#8, 0x81#8] = .ok (.st 0x81#8, []) ∧
  decode [0x0A#8] = .ok (.push, []) ∧ decode [0x0B#8] = .ok (.pop, []) ∧
  decode [0x0C#8, 0x03#8, 0x04#8] = .ok (.add 0x03#8 0x04#8, []) ∧
  decode [0x11#8, 0x0C#8] = .ok (.jmp 0x0C#8, []) ∧ decode [0x13#8, 0x15#8] = .ok (.jeq 0x15#8, []) ∧
  decode [0x16#8, 0xFF#8] = .ok (.cmp 0xFF#8, [])

/-- R59: the illegal bytes are the ones listed, 242 of them; they have no handler and are rejected by name; fetching one
raises DecodeError; an operand byte, illegal as an opcode or not, raises nothing. -/
def Obligations.IllegalBytesHaveNoHandler : Prop :=
  (∀ op : Byte, dispatch op = none ↔
    op ∈ [0x03#8, 0x07#8, 0x0D#8, 0x0E#8, 0x0F#8, 0x10#8, 0x12#8, 0x14#8, 0x15#8] ∨
      0x17 ≤ op.toNat ∧ op.toNat ≤ 0xFF) ∧
  ((List.range 256).filter (fun n => (dispatch (BitVec.ofNat 8 n)).isNone)).length = 242 ∧
  (∀ (op : Byte) (rest : List Byte), dispatch op = none → decode (op :: rest) = .error (.illegalOpcode op)) ∧
  (∀ s : State, s.run = .running → dispatch (s.mem.read s.pc) = none →
    ∃ t, step s = .next t ∧ t.run = .halted ∧ t.events = s.events ++ [.err (s.mem.read s.pc) s.pc]) ∧
  (∀ s : State, s.run = .running → dispatch (s.mem.read s.pc) ≠ none →
    ∃ t, step s = .next t ∧ t.fault = s.fault ∧ ∀ op p, t.events ≠ s.events ++ [.err op p])

/-! ### The tick -/

/-- R66 to R68: while RUNNING, a step fetches, dispatches and executes, and the fetch has written MAR and MDR alone. That the
tick decodes the three bytes at `pc`, `pc + 1` and `pc + 2` (modulo 256) at once and hands the operands to `exec`, where R69
has the handler `Load` them itself, is the model's own form (DEDUCED, log 3); that the addresses wrap is the spec's decision
D7 (log 10). -/
def Obligations.StepRunsTheDecodedInstruction : Prop :=
  ∀ (s : State) (i : Instr) (rest : List Byte), s.run = .running →
    decode [s.mem.read s.pc, s.mem.read (s.pc + 1#8), s.mem.read (s.pc + 2#8)] = .ok (i, rest) →
    step s = exec i { s with mar := s.pc, mdr := s.mem.read s.pc }

/-- R67: the fetch reads the byte at `pc` through MAR and MDR and writes nothing else; it sees every earlier store. -/
def Obligations.FetchWritesMarAndMdrOnly : Prop :=
  ∀ s : State, s.fetch.mar = s.pc ∧ s.fetch.mdr = s.mem.read s.pc ∧
    (∃ a d : Byte, s.fetch = { s with mar := a, mdr := d }) ∧
    ∀ v : Byte, (s.store s.pc v).fetch.mdr = v ∧ (s.hostWrite s.pc v).fetch.mdr = v

/-- R65: ticks while HALTED, any number of them, change nothing: no field, no memory cell, no event. -/
def Obligations.HaltedTicksChangeNothing : Prop :=
  ∀ s : State, s.run = .halted → step s = .next s ∧ ∀ k, ticks k s = .next s

/-- R101, R103: an unrecognized opcode is the only exception, and no instruction's execute step raises one. That every tick of
every state answers a next state, the one that takes DecodeError among them, is the model's form (DEDUCED, log 4). That the
exception is seen in the latch, which changes only where a RUNNING core fetched a byte without a handler, rests on the spec's
decision D8 (log 8). -/
def Obligations.OnlyAnIllegalOpcodeIsAnException : Prop :=
  (∀ s : State, ∃ t, step s = .next t ∧
    (t.fault ≠ s.fault → s.run = .running ∧ dispatch (s.mem.read s.pc) = none)) ∧
  (∀ (i : Instr) (s : State), ∃ t, exec i s = .next t ∧ t.fault = s.fault)

/-- R102, R106: taking DecodeError writes the latch, the run state and the channel, and keeps what the fetch did; nothing else
changes. The latch and the frame are the spec's decision D8 (log 8). -/
def Obligations.DecodeErrorIsPrecise : Prop :=
  ∀ s : State, s.run = .running → dispatch (s.mem.read s.pc) = none →
    step s = .next { s with
      mar := s.pc, mdr := s.mem.read s.pc, run := .halted, fault := some ⟨s.mem.read s.pc, s.pc⟩,
      events := s.events ++ [.err (s.mem.read s.pc) s.pc] }

/-- R66, R69, R83 to R102: the machine, which decodes instructions and executes them, and the pseudocode of the rules, which
works byte by byte with a `Load` for each operand, are the same function on every state. -/
def Obligations.StepIsTheMicroOperationTick : Prop :=
  ∀ s : State, step s = .next (microTick s)

/-- R21: where the pc goes, for every row of the table, with every sum modulo 256. -/
def Obligations.PcAfterEachTick : Prop :=
  ∀ s : State, s.run = .running → ∃ t, step s = .next t ∧
    (s.mem.read s.pc = 0x00#8 → t.pc = s.pc) ∧
    (s.mem.read s.pc ∈ [0x01#8, 0x06#8, 0x0A#8, 0x0B#8] → t.pc.toNat = (s.pc.toNat + 1) % 256) ∧
    (s.mem.read s.pc ∈ [0x02#8, 0x04#8, 0x08#8, 0x09#8, 0x16#8] → t.pc.toNat = (s.pc.toNat + 2) % 256) ∧
    (s.mem.read s.pc ∈ [0x05#8, 0x0C#8] → t.pc.toNat = (s.pc.toNat + 3) % 256) ∧
    (s.mem.read s.pc = 0x11#8 → t.pc = s.mem.read (s.pc + 1#8)) ∧
    (s.mem.read s.pc = 0x13#8 →
      if s.eq then t.pc = s.mem.read (s.pc + 1#8) else t.pc.toNat = (s.pc.toNat + 2) % 256) ∧
    (dispatch (s.mem.read s.pc) = none → t.pc = s.pc)

/-- R70, R57: a handler moves the pc on by its instruction's width, the length of its encoding, unless it is a jump, which sets
the pc, or HALT, which leaves it. The modulus is the spec's decision D7 (log 10); PUSH and POP have width 1 (log 12). -/
def Obligations.HandlersAdvanceByTheWidth : Prop :=
  ∀ (i : Instr) (s : State), ∃ t, exec i s = .next t ∧
    (i.opcode ∉ [Opcode.halt, .jmp, .jeq] →
      t.pc.toNat = (s.pc.toNat + i.opcode.width) % 256 ∧ i.opcode.width = (encode i).length) ∧
    (i.opcode = .halt → t.pc = s.pc) ∧ (∀ a, i = .jmp a → t.pc = a) ∧
    ∀ a, i = .jeq a → (t.pc = a ∧ s.eq = true) ∨
      (t.pc.toNat = (s.pc.toNat + i.opcode.width) % 256 ∧ s.eq = false)

/-- R25: MAR and MDR after each instruction. The table is the spec's decision D6 (log 9). What "the byte pushed" is with
`cur = 255`, the decremented SP, is given by neither: it is the spec's inference in R92 from R12 (log 13). The wrap of the
addresses is its decision D7 (log 10). -/
def Obligations.MarAndMdrAfterEachTick : Prop :=
  ∀ s : State, s.run = .running → ∃ t, step s = .next t ∧
    (s.mem.read s.pc ∈ [0x00#8, 0x01#8, 0x06#8] → t.mar = s.pc ∧ t.mdr = s.mem.read s.pc) ∧
    (s.mem.read s.pc ∈ [0x02#8, 0x04#8, 0x16#8, 0x11#8, 0x13#8] →
      t.mar.toNat = (s.pc.toNat + 1) % 256 ∧ t.mdr = s.mem.read (s.pc + 1#8)) ∧
    (s.mem.read s.pc ∈ [0x05#8, 0x0C#8] →
      t.mar.toNat = (s.pc.toNat + 2) % 256 ∧ t.mdr = s.mem.read (s.pc + 2#8)) ∧
    (s.mem.read s.pc = 0x08#8 →
      t.mar = s.mem.read (s.pc + 1#8) ∧ t.mdr = s.mem.read (s.mem.read (s.pc + 1#8))) ∧
    (s.mem.read s.pc = 0x09#8 → t.mar = s.mem.read (s.pc + 1#8) ∧ t.mdr = s.getReg s.cur) ∧
    (s.mem.read s.pc = 0x0A#8 → t.mar.toNat = (s.sp.toNat + 255) % 256 ∧
      t.mdr = (if s.cur = 0xFF#8 then s.sp - 1#8 else s.getReg s.cur)) ∧
    (s.mem.read s.pc = 0x0B#8 → t.mar = s.sp ∧ t.mdr = s.mem.read s.sp) ∧
    (dispatch (s.mem.read s.pc) = none → t.mar = s.pc ∧ t.mdr = s.mem.read s.pc)

/-- R40, R42: an instruction may begin at the top of memory; its operand bytes and its next pc wrap. An ADD at 0xFE takes its
operands from 0xFF and 0x00 and goes on at 0x01. The wrap is the spec's decision D7 (log 10). -/
def Obligations.AddAtTheTopOfMemoryWraps : Prop :=
  ∀ s : State, s.run = .running → s.pc = 0xFE#8 → s.mem.read 0xFE#8 = 0x0C#8 →
    ∃ t, step s = .next t ∧ t.pc = 0x01#8 ∧ t.mar = 0x00#8 ∧
      (t.getReg s.cur).toNat =
        ((s.getReg (s.mem.read 0xFF#8)).toNat + (s.getReg (s.mem.read 0x00#8)).toNat) % 256

/-! ### The ALU -/

/-- R76, R77: ADD and MUL give the sum and the product modulo 256; the high bits are recorded nowhere (the operations answer
one byte and no state); the ADD and MUL instructions store the result. -/
def Obligations.AluAddAndMulWrapModulo256 : Prop :=
  ∀ (s : State) (a b : RegId),
    (s.aluAdd a b).toNat = ((s.getReg a).toNat + (s.getReg b).toNat) % 256 ∧
    (s.aluMul a b).toNat = ((s.getReg a).toNat * (s.getReg b).toNat) % 256 ∧
    (∃ t, exec (.add a b) s = .next t ∧ t.getReg s.cur = s.aluAdd a b) ∧
    ∃ t, exec (.mul a b) s = .next t ∧ t.getReg s.cur = s.aluMul a b

/-- R78, R79: INC and DEC work in place on a general or a special register, wrap, and leave every other register, memory, the
selector, the flag, the run state, the latch and the channel alone. POP's and PUSH's updates of SP are these operations on
register 255: they leave the register file that INC (after the popped byte is written) and DEC leave. These two clauses rest
on the spec's inference in R73 (log 19), and what POP leaves with `cur = 255`, the popped byte plus one, on its inference in
R93 from R12 (log 13). -/
def Obligations.AluIncAndDecWorkInPlace : Prop :=
  ∀ (s : State) (g : RegOrSpecial),
    ((s.aluInc g).getTarget g).toNat = ((s.getTarget g).toNat + 1) % 256 ∧
    ((s.aluDec g).getTarget g).toNat = ((s.getTarget g).toNat + 255) % 256 ∧
    (∀ u, u ≠ g → (s.aluInc g).getTarget u = s.getTarget u ∧ (s.aluDec g).getTarget u = s.getTarget u) ∧
    (∀ t ∈ [s.aluInc g, s.aluDec g], t.mem = s.mem ∧ t.cur = s.cur ∧ t.eq = s.eq ∧ t.run = s.run ∧
      t.fault = s.fault ∧ t.events = s.events) ∧
    (∃ t, exec .pop s = .next t ∧ t.x = ((s.setReg s.cur (s.mem.read s.sp)).aluInc (.general 0xFF#8)).x) ∧
    ∃ t, exec .push s = .next t ∧ t.x = (s.aluDec (.general 0xFF#8)).x

/-- R80: CMP sets the flag to the equality of the two registers and writes only the flag; of a register with itself it is
true. The CMP instruction applies it to `cur` and its operand. -/
def Obligations.AluCmpWritesOnlyTheFlag : Prop :=
  ∀ (s : State) (a b : RegId),
    ((s.aluCmp a b).eq = true ↔ (s.getReg a).toNat = (s.getReg b).toNat) ∧
    (s.aluCmp a a).eq = true ∧ (∃ f : Bool, s.aluCmp a b = { s with eq := f }) ∧
    ∃ t, exec (.cmp b) s = .next t ∧ t.eq = (s.aluCmp s.cur b).eq

/-! ### Memory -/

/-- R37: `MemWrite` (by the host, or by `Store`) sets one cell and no other, at the first and the last address as elsewhere;
R36: reading gives the byte the cell holds. -/
def Obligations.MemWriteSetsOneCell : Prop :=
  ∀ (m : Memory) (a b : Addr) (v w : Byte),
    (m.write a v).read a = v ∧ (b ≠ a → (m.write a v).read b = m.read b) ∧
    ((m.write a v).write a w).read a = w ∧
    (b ≠ a → ((m.write a v).write b w).read a = v ∧ ((m.write a v).write b w).read b = w)

/-- The model's canonical form of memory (log 1): two memories in that form that read alike at every address of R33 are the
same data. -/
def Obligations.CanonicalMemoriesThatReadAlikeAreEqual : Prop :=
  ∀ m n : Memory, m.wf → n.wf → (∀ a : Addr, m.read a = n.read a) → m = n

/-- R38, R39: `Load` and `Store` go through MAR and MDR and touch nothing else but the stored cell. `Store`'s protocol is the
spec's decision D6 (log 9). -/
def Obligations.LoadAndStoreGoThroughMarAndMdr : Prop :=
  ∀ (s : State) (a : Addr) (v : Byte),
    (s.load a).mar = a ∧ (s.load a).mdr = s.mem.read (s.load a).mar ∧ MemKeptBut [] s (s.load a) ∧
    (s.store a v).mar = a ∧ (s.store a v).mdr = v ∧
    (s.store a v).mem.read (s.store a v).mar = (s.store a v).mdr ∧ MemKeptBut [a] s (s.store a v) ∧
    ∀ t ∈ [s.load a, s.store a v], RegsKeptBut [] s t ∧ t.pc = s.pc ∧ t.cur = s.cur ∧ t.eq = s.eq ∧
      t.run = s.run ∧ t.fault = s.fault ∧ t.events = s.events

/-! ### Register selection and immediate load -/

/-- R83: INIT, for every state: `cur <- 0`, the pc one further, nothing else; MAR and MDR keep the values of the fetch. It is
SET 0 but for the width and for MAR and MDR: this clause is the spec's inference from R83 and R84 (log 19). -/
def Obligations.InitSelectsRegisterZero : Prop :=
  ∀ (s : State) (rest : List Byte), decode (0x01#8 :: rest) = .ok (.init, rest) ∧
    ∃ t, exec .init s = .next t ∧ t.cur = 0x00#8 ∧ t.pc.toNat = (s.pc.toNat + 1) % 256 ∧ MarMdrKept s t ∧
      RegsKeptBut [] s t ∧ MemKeptBut [] s t ∧ t.eq = s.eq ∧ t.run = s.run ∧ t.fault = s.fault ∧
      t.events = s.events ∧
      ∃ u, exec (.set 0x00#8) s = .next u ∧ { u with pc := t.pc, mar := t.mar, mdr := t.mdr } = t

/-- R84: SET, for every register id and state: `cur <- r` (255 as any other), the pc two further, MAR and MDR those of the
operand read, nothing else. -/
def Obligations.SetSelectsTheRegister : Prop :=
  ∀ (r : RegId) (s : State) (rest : List Byte), decode (0x02#8 :: r :: rest) = .ok (.set r, rest) ∧
    ∃ t, exec (.set r) s = .next t ∧ t.cur = r ∧ t.pc.toNat = (s.pc.toNat + 2) % 256 ∧
      t.mar.toNat = (s.pc.toNat + 1) % 256 ∧ t.mdr = r ∧
      RegsKeptBut [] s t ∧ MemKeptBut [] s t ∧ t.eq = s.eq ∧ t.run = s.run ∧ t.fault = s.fault ∧
      t.events = s.events

/-- R85: SAVE, for every immediate and state: `x[cur] <- imm` as it is (with `cur = 255` that is SP), the pc two further. -/
def Obligations.SaveWritesTheImmediate : Prop :=
  ∀ (imm : Byte) (s : State) (rest : List Byte), decode (0x04#8 :: imm :: rest) = .ok (.save imm, rest) ∧
    ∃ t, exec (.save imm) s = .next t ∧ t.getReg s.cur = imm ∧ (s.cur = 0xFF#8 → t.sp = imm) ∧
      t.pc.toNat = (s.pc.toNat + 2) % 256 ∧ t.mar.toNat = (s.pc.toNat + 1) % 256 ∧ t.mdr = imm ∧
      RegsKeptBut [s.cur] s t ∧ MemKeptBut [] s t ∧ t.cur = s.cur ∧ t.eq = s.eq ∧ t.run = s.run ∧
      t.fault = s.fault ∧ t.events = s.events

/-! ### Arithmetic and compare -/

/-- R86: MUL, for all register ids and states, `cur` equal to a source or not: `x[cur]` gets the product of the values the
sources held, modulo 256, the pc three further, no flag. -/
def Obligations.MulStoresTheProduct : Prop :=
  ∀ (r1 r2 : RegId) (s : State) (rest : List Byte),
    decode (0x05#8 :: r1 :: r2 :: rest) = .ok (.mul r1 r2, rest) ∧
    ∃ t, exec (.mul r1 r2) s = .next t ∧
      (t.getReg s.cur).toNat = ((s.getReg r1).toNat * (s.getReg r2).toNat) % 256 ∧
      t.pc.toNat = (s.pc.toNat + 3) % 256 ∧ t.mar.toNat = (s.pc.toNat + 2) % 256 ∧ t.mdr = r2 ∧
      RegsKeptBut [s.cur] s t ∧ MemKeptBut [] s t ∧ t.cur = s.cur ∧ t.eq = s.eq ∧ t.run = s.run ∧
      t.fault = s.fault ∧ t.events = s.events

/-- R87: ADD, as MUL with the sum. -/
def Obligations.AddStoresTheSum : Prop :=
  ∀ (r1 r2 : RegId) (s : State) (rest : List Byte),
    decode (0x0C#8 :: r1 :: r2 :: rest) = .ok (.add r1 r2, rest) ∧
    ∃ t, exec (.add r1 r2) s = .next t ∧
      (t.getReg s.cur).toNat = ((s.getReg r1).toNat + (s.getReg r2).toNat) % 256 ∧
      t.pc.toNat = (s.pc.toNat + 3) % 256 ∧ t.mar.toNat = (s.pc.toNat + 2) % 256 ∧ t.mdr = r2 ∧
      RegsKeptBut [s.cur] s t ∧ MemKeptBut [] s t ∧ t.cur = s.cur ∧ t.eq = s.eq ∧ t.run = s.run ∧
      t.fault = s.fault ∧ t.events = s.events

/-- R88: CMP, for every register id and state: `eq` says whether the two bytes are equal (of `cur` with itself: true), and no
register or memory cell changes. That 0x16 is dispatched is the spec's decision D1 (log 7). -/
def Obligations.CmpSetsTheFlag : Prop :=
  ∀ (r : RegId) (s : State) (rest : List Byte), decode (0x16#8 :: r :: rest) = .ok (.cmp r, rest) ∧
    ∃ t, exec (.cmp r) s = .next t ∧ (t.eq = true ↔ (s.getReg s.cur).toNat = (s.getReg r).toNat) ∧
      (r = s.cur → t.eq = true) ∧
      t.pc.toNat = (s.pc.toNat + 2) % 256 ∧ t.mar.toNat = (s.pc.toNat + 1) % 256 ∧ t.mdr = r ∧
      RegsKeptBut [] s t ∧ MemKeptBut [] s t ∧ t.cur = s.cur ∧ t.run = s.run ∧ t.fault = s.fault ∧
      t.events = s.events

/-! ### Loads and stores -/

/-- R89: LD, for every address and state: `x[cur]` gets the byte at `a`, the pc two further, memory unchanged. That LD has its
intended semantics is the spec's decision D3 (log 11). -/
def Obligations.LdLoadsTheByte : Prop :=
  ∀ (a : Addr) (s : State) (rest : List Byte), decode (0x08#8 :: a :: rest) = .ok (.ld a, rest) ∧
    ∃ t, exec (.ld a) s = .next t ∧ t.getReg s.cur = s.mem.read a ∧
      t.pc.toNat = (s.pc.toNat + 2) % 256 ∧ t.mar = a ∧ t.mdr = s.mem.read a ∧
      RegsKeptBut [s.cur] s t ∧ MemKeptBut [] s t ∧ t.cur = s.cur ∧ t.eq = s.eq ∧ t.run = s.run ∧
      t.fault = s.fault ∧ t.events = s.events

/-- R90: ST, for every address and state: the byte at `a` becomes `x[cur]` (with `cur = 255` that is SP), every other byte
and every register stays, the pc two further; the next fetch at `a` sees the byte. -/
def Obligations.StStoresTheByte : Prop :=
  ∀ (a : Addr) (s : State) (rest : List Byte), decode (0x09#8 :: a :: rest) = .ok (.st a, rest) ∧
    ∃ t, exec (.st a) s = .next t ∧ t.mem.read a = s.getReg s.cur ∧ MemKeptBut [a] s t ∧
      t.pc.toNat = (s.pc.toNat + 2) % 256 ∧ t.mar = a ∧ t.mdr = s.getReg s.cur ∧
      RegsKeptBut [] s t ∧ t.cur = s.cur ∧ t.eq = s.eq ∧ t.run = s.run ∧ t.fault = s.fault ∧
      t.events = s.events ∧ (t.jumpTo a).fetch.mdr = s.getReg s.cur

/-- R91: an ST and then an LD of the same address leave `x[cur]` as it was, when the ST does not overwrite a byte of the LD.
The rule is the spec's inference from R89 and R90 (log 19); LD's intended semantics is its decision D3 (log 11). -/
def Obligations.StThenLdRestoresTheRegister : Prop :=
  ∀ (s : State) (a : Addr), s.run = .running →
    s.mem.read s.pc = 0x09#8 → s.mem.read (s.pc + 1#8) = a →
    s.mem.read (s.pc + 2#8) = 0x08#8 → s.mem.read (s.pc + 3#8) = a → a ≠ s.pc + 2#8 → a ≠ s.pc + 3#8 →
    ∃ t, ticks 2 s = .next t ∧ t.getReg s.cur = s.getReg s.cur ∧ RegsKeptBut [] s t ∧
      t.mem.read a = s.getReg s.cur ∧ MemKeptBut [a] s t ∧ t.cur = s.cur ∧ t.run = .running ∧
      t.pc.toNat = (s.pc.toNat + 4) % 256

/-- R49, R123: an ST into the byte after itself changes what the next tick executes, with nothing in between: 0x00 halts
there, a byte without a handler raises DecodeError there. The rule R49 is the spec's inference (log 19), and the latch its
decision D8 (log 8). -/
def Obligations.AStoredByteIsTheNextOneFetched : Prop :=
  ∀ s : State, s.run = .running → s.mem.read s.pc = 0x09#8 → s.mem.read (s.pc + 1#8) = s.pc + 2#8 →
    ∃ t u, step s = .next t ∧ step t = .next u ∧ t.pc = s.pc + 2#8 ∧ t.fetch.mdr = s.getReg s.cur ∧
      (s.getReg s.cur = 0x00#8 → u.run = .halted ∧ u.fault = s.fault ∧ u.pc = s.pc + 2#8) ∧
      (dispatch (s.getReg s.cur) = none →
        u.run = .halted ∧ u.fault = some ⟨s.getReg s.cur, s.pc + 2#8⟩ ∧ u.pc = s.pc + 2#8)

/-! ### Stack -/

/-- R92: PUSH, for every state: SP goes down by one modulo 256, the byte at the new SP becomes `x[cur]`, every other byte
and register stays, the pc one further. With `cur = 255` the byte stored is the decremented SP: the spec's inference from
R12 (log 13). That the pc advances is its reading of C4 (log 12). -/
def Obligations.PushStoresBelowTheStackPointer : Prop :=
  ∀ (s : State) (rest : List Byte), decode (0x0A#8 :: rest) = .ok (.push, rest) ∧
    ∃ t, exec .push s = .next t ∧ t.sp.toNat = (s.sp.toNat + 255) % 256 ∧
      t.mem.read (s.sp - 1#8) = (if s.cur = 0xFF#8 then s.sp - 1#8 else s.getReg s.cur) ∧
      MemKeptBut [s.sp - 1#8] s t ∧ RegsKeptBut [0xFF#8] s t ∧
      t.mar = s.sp - 1#8 ∧ t.mdr = (if s.cur = 0xFF#8 then s.sp - 1#8 else s.getReg s.cur) ∧
      t.pc.toNat = (s.pc.toNat + 1) % 256 ∧ t.cur = s.cur ∧ t.eq = s.eq ∧ t.run = s.run ∧
      t.fault = s.fault ∧ t.events = s.events

/-- R93: POP, for every state: `x[cur]` gets the byte at SP, SP goes up by one modulo 256, memory keeps the popped cell, the
pc one further. With `cur = 255` SP ends at the popped byte plus one: the spec's inference from R12 (log 13). That the pc
advances is its reading of C4 (log 12). -/
def Obligations.PopLoadsFromTheStackPointer : Prop :=
  ∀ (s : State) (rest : List Byte), decode (0x0B#8 :: rest) = .ok (.pop, rest) ∧
    ∃ t, exec .pop s = .next t ∧
      (s.cur ≠ 0xFF#8 → t.getReg s.cur = s.mem.read s.sp ∧ t.sp.toNat = (s.sp.toNat + 1) % 256) ∧
      (s.cur = 0xFF#8 → t.sp.toNat = ((s.mem.read s.sp).toNat + 1) % 256) ∧
      RegsKeptBut [s.cur, 0xFF#8] s t ∧ MemKeptBut [] s t ∧ t.mar = s.sp ∧ t.mdr = s.mem.read s.sp ∧
      t.pc.toNat = (s.pc.toNat + 1) % 256 ∧ t.cur = s.cur ∧ t.eq = s.eq ∧ t.run = s.run ∧
      t.fault = s.fault ∧ t.events = s.events

/-- R18: SP and general register 255 are one register. A write to it by SAVE, MUL, ADD, LD or POP with `cur = 255` changes
SP, and PUSH's and POP's changes of SP are seen by a read of register 255. What POP with `cur = 255` leaves is the spec's
inference from R12 (log 13). -/
def Obligations.RegisterTwoFiftyFiveIsTheStackPointer : Prop :=
  ∀ s t : State,
    (s.cur = 0xFF#8 →
      (∀ imm, exec (.save imm) s = .next t → t.sp = imm) ∧
      (∀ r1 r2, exec (.mul r1 r2) s = .next t → t.sp = s.getReg r1 * s.getReg r2) ∧
      (∀ r1 r2, exec (.add r1 r2) s = .next t → t.sp = s.getReg r1 + s.getReg r2) ∧
      (∀ a, exec (.ld a) s = .next t → t.sp = s.mem.read a) ∧
      (exec .pop s = .next t → t.sp = s.mem.read (s.getReg 0xFF#8) + 1#8)) ∧
    (exec .push s = .next t → t.getReg 0xFF#8 = s.sp - 1#8) ∧
    (s.cur ≠ 0xFF#8 → exec .pop s = .next t → t.getReg 0xFF#8 = s.sp + 1#8)

/-- R94: the stack law. Any sequence of at most 256 PUSHes of registers, then as many POPs into registers, none of them 255,
gives the pushed values back in reverse order (the printed events are the values popped) and leaves SP as it was. The
rule is the spec's inference from R92 and R93 (log 19); the advance and SP as `x[255]` are its resolutions of C4 and C2
(log 12). Nothing is fetched here, so no push can overwrite the code (the model's form of the rule, log 19). -/
def Obligations.StackLaw : Prop :=
  ∀ (pushed popped : List RegId) (s : State), pushed.length ≤ 256 → popped.length = pushed.length →
    (∀ r ∈ pushed, r ≠ 0xFF#8) → (∀ r ∈ popped, r ≠ 0xFF#8) →
    ∃ t, execAll (pushAll pushed ++ popAllPrinting popped) s = .next t ∧ t.sp = s.sp ∧
      t.events = s.events ++ (pushed.map s.getReg).reverse.map Event.out

/-! ### Control transfer and halt -/

/-- R95: JMP, for every target and state: the pc is set directly, nothing else but the operand read. Its intended semantics is
the spec's decision D3 (log 11). -/
def Obligations.JmpSetsThePc : Prop :=
  ∀ (a : Addr) (s : State) (rest : List Byte), decode (0x11#8 :: a :: rest) = .ok (.jmp a, rest) ∧
    ∃ t, exec (.jmp a) s = .next t ∧ t.pc = a ∧ t.mar.toNat = (s.pc.toNat + 1) % 256 ∧ t.mdr = a ∧
      RegsKeptBut [] s t ∧ MemKeptBut [] s t ∧ t.cur = s.cur ∧ t.eq = s.eq ∧ t.run = s.run ∧
      t.fault = s.fault ∧ t.events = s.events

/-- R96: JEQ, for every target and state: the target if `eq`, else two further; the flag keeps its value and the operand is
read either way. Its intended semantics and the read are the spec's decisions D3 and D6 (logs 11 and 9). -/
def Obligations.JeqBranchesIffTheFlagIsSet : Prop :=
  ∀ (a : Addr) (s : State) (rest : List Byte), decode (0x13#8 :: a :: rest) = .ok (.jeq a, rest) ∧
    ∃ t, exec (.jeq a) s = .next t ∧ (s.eq = true → t.pc = a) ∧
      (s.eq = false → t.pc.toNat = (s.pc.toNat + 2) % 256) ∧
      t.mar.toNat = (s.pc.toNat + 1) % 256 ∧ t.mdr = a ∧
      RegsKeptBut [] s t ∧ MemKeptBut [] s t ∧ t.cur = s.cur ∧ t.eq = s.eq ∧ t.run = s.run ∧
      t.fault = s.fault ∧ t.events = s.events

/-- R97: HALT, for every state: `run` becomes HALTED, the pc keeps the address of the HALT byte, nothing else changes (a latch
that was none stays none: a normal end), and every later tick changes nothing. A RUNNING core whose pc reaches a cell
holding 0x00 halts there. -/
def Obligations.HaltStopsTheCore : Prop :=
  (∀ (s : State) (rest : List Byte), decode (0x00#8 :: rest) = .ok (.halt, rest) ∧
    ∃ t, exec .halt s = .next t ∧ t.run = .halted ∧ t.pc = s.pc ∧ MarMdrKept s t ∧
      (s.fault = none → t.endedNormally) ∧ (∀ k, ticks k t = .next t) ∧
      RegsKeptBut [] s t ∧ MemKeptBut [] s t ∧ t.cur = s.cur ∧ t.eq = s.eq ∧ t.fault = s.fault ∧
      t.events = s.events) ∧
  (∀ s : State, s.run = .running → s.mem.read s.pc = 0x00#8 →
    ∃ t, step s = .next t ∧ t.run = .halted ∧ t.pc = s.pc ∧ t.mar = s.pc ∧ t.mdr = 0x00#8 ∧ t.fault = s.fault)

/-- R95, R74: a JMP to its own address never halts, however many ticks the host issues. -/
def Obligations.JmpToItselfNeverHalts : Prop :=
  ∀ s : State, s.run = .running → s.mem.read s.pc = 0x11#8 → s.mem.read (s.pc + 1#8) = s.pc →
    ∀ k, ∃ t, ticks k s = .next t ∧ t.run = .running ∧ t.pc = s.pc ∧ t.events = s.events ∧ RegsKeptBut [] s t

/-! ### Output -/

/-- R99: PRN, for every state: one event `Out(x[cur])`, the pc one further, nothing else; MAR and MDR keep the values of the
fetch. -/
def Obligations.PrnEmitsTheRegister : Prop :=
  ∀ (s : State) (rest : List Byte), decode (0x06#8 :: rest) = .ok (.prn, rest) ∧
    ∃ t, exec .prn s = .next t ∧ t.events = s.events ++ [.out (s.getReg s.cur)] ∧
      t.pc.toNat = (s.pc.toNat + 1) % 256 ∧ MarMdrKept s t ∧ RegsKeptBut [] s t ∧ MemKeptBut [] s t ∧
      t.cur = s.cur ∧ t.eq = s.eq ∧ t.run = s.run ∧ t.fault = s.fault

/-- R100: a tick emits `Out(x[cur])` where it executes PRN, `Err(opcode, pc)` where it takes DecodeError, and nothing else;
and what the channel has received changes nothing in the CORE. The record is the model's field (log 2), a lossless ordered
channel the spec's decision D15. -/
def Obligations.EventsOfEachTick : Prop :=
  ∀ s : State, ∃ (t : State) (added : List Event), step s = .next t ∧ t.events = s.events ++ added ∧
    (s.run = .halted → added = []) ∧
    (s.run = .running → s.mem.read s.pc = 0x06#8 → added = [.out (s.getReg s.cur)]) ∧
    (s.run = .running → dispatch (s.mem.read s.pc) = none → added = [.err (s.mem.read s.pc) s.pc]) ∧
    (s.run = .running → s.mem.read s.pc ≠ 0x06#8 → dispatch (s.mem.read s.pc) ≠ none → added = []) ∧
    ∀ es, step { s with events := es } = .next { t with events := es ++ added }

/-! ### Rules of the whole machine -/

/-- R28: only CMP writes the flag, by the rule `x[cur] == x[op]`; only JEQ reads it (a tick that is not a JEQ does the same
to two states that differ in the flag alone, and leaves the difference unless it is a CMP); it is false after reset. -/
def Obligations.OnlyCmpWritesAndOnlyJeqReadsTheFlag : Prop :=
  (∀ s : State, ∃ t, step s = .next t ∧
    (s.run = .halted ∨ s.mem.read s.pc ≠ 0x16#8 → t.eq = s.eq) ∧
    (s.run = .running → s.mem.read s.pc = 0x16#8 →
      (t.eq = true ↔ s.getReg s.cur = s.getReg (s.mem.read (s.pc + 1#8)))) ∧
    ∀ b : Bool, s.run = .halted ∨ s.mem.read s.pc ≠ 0x13#8 →
      step { s with eq := b } =
        .next { t with eq := if s.run = .running ∧ s.mem.read s.pc = 0x16#8 then t.eq else b }) ∧
  State.reset.eq = false ∧ ∀ s : State, s.hostReset.eq = false

/-- R26: only INIT and SET write `cur`; it persists otherwise. -/
def Obligations.OnlyInitAndSetWriteTheSelector : Prop :=
  ∀ s t : State, step s = .next t → t.cur ≠ s.cur →
    s.run = .running ∧ ((s.mem.read s.pc = 0x01#8 ∧ t.cur = 0x00#8) ∨
      (s.mem.read s.pc = 0x02#8 ∧ t.cur = s.mem.read (s.pc + 1#8)))

/-- R24: the values MAR and MDR hold before a tick flow nowhere: two RUNNING states that differ in them alone have the same
next state. The spec marks this as its inference from R24 and R67 (log 19). -/
def Obligations.MarAndMdrFlowNowhere : Prop :=
  ∀ (s : State) (a d : Byte), s.run = .running → step { s with mar := a, mdr := d } = step s

/-- R16: which ticks write a general register, and which one. -/
def Obligations.RegistersWrittenByEachTick : Prop :=
  ∀ (s t : State) (r : RegId), step s = .next t → t.getReg r ≠ s.getReg r →
    s.run = .running ∧
      ((r = s.cur ∧ s.mem.read s.pc ∈ [0x04#8, 0x05#8, 0x0C#8, 0x08#8, 0x0B#8]) ∨
        (r = 0xFF#8 ∧ s.mem.read s.pc ∈ [0x0A#8, 0x0B#8]))

/-- R35: a tick that changes a byte of memory is an ST, at its operand address, or a PUSH, at SP minus one. -/
def Obligations.OnlyStAndPushWriteMemory : Prop :=
  ∀ (s t : State) (a : Addr), step s = .next t → t.mem.read a ≠ s.mem.read a →
    s.run = .running ∧ ((s.mem.read s.pc = 0x09#8 ∧ a = s.mem.read (s.pc + 1#8)) ∨
      (s.mem.read s.pc = 0x0A#8 ∧ a = s.sp - 1#8))

/-- R29, R114: a tick leaves RUNNING exactly by HALT or DecodeError, no tick and no host write leaves HALTED, and `Reset`
does. That `Reset` is the only exit is the spec's decision D9 (log 8). -/
def Obligations.RunChangesByHaltDecodeErrorAndReset : Prop :=
  (∀ s : State, ∃ t, step s = .next t ∧ (t.run = .halted ↔
    s.run = .halted ∨ s.mem.read s.pc = 0x00#8 ∨ dispatch (s.mem.read s.pc) = none)) ∧
  (∀ (s t : State) (e : HostEvent), s.run = .halted → e ≠ .reset → transact e s = .next t → t.run = .halted) ∧
  ∀ s : State, s.hostReset.run = .running

/-! ### Reset, the host and the invariant -/

/-- R31, R118: the values after reset. Those of `cur`, `mar`, `mdr` and `fault` are the spec's decisions D4, D5 and D8 (logs
5 and 8); what unlisted memory reads as and the empty record of events are the model's choices (logs 1 and 2). -/
def Obligations.ValuesAfterReset : Prop :=
  (∀ r : RegId, State.reset.getReg r = 0x00#8) ∧ State.reset.sp = 0x00#8 ∧ State.reset.pc = 0x00#8 ∧
  State.reset.run = .running ∧ State.reset.eq = false ∧ State.reset.cur = 0x00#8 ∧ State.reset.mar = 0x00#8 ∧
  State.reset.mdr = 0x00#8 ∧ State.reset.fault = none ∧ State.reset.events = [] ∧
  ∀ a : Addr, State.reset.mem.read a = 0x00#8

/-- R118, R119: `Reset` by the host, in any state, gives every field but memory its reset value, leaves memory unchanged and
emits nothing. The rules carry the spec's decisions D4, D5, D8, D9 and D16 (logs 1, 5 and 8). -/
def Obligations.HostResetKeepsMemory : Prop :=
  ∀ s : State, ∃ t, transact .reset s = .next t ∧ (∀ r : RegId, t.getReg r = 0x00#8) ∧ t.pc = 0x00#8 ∧
    t.run = .running ∧ t.eq = false ∧ t.cur = 0x00#8 ∧ t.mar = 0x00#8 ∧ t.mdr = 0x00#8 ∧ t.fault = none ∧
    MemKeptBut [] s t ∧ t.events = s.events

/-- R115: `HostWrite`, in any run state, sets one cell and changes nothing else: no register, not MAR and MDR, not the run
state or the latch. That the host may write in any run state is the spec's decision D10. -/
def Obligations.HostWriteChangesOneCell : Prop :=
  ∀ (s : State) (a : Addr) (v : Byte), ∃ t, transact (.hostWrite a v) s = .next t ∧ t.mem.read a = v ∧
    MemKeptBut [a] s t ∧ RegsKeptBut [] s t ∧ MarMdrKept s t ∧ t.pc = s.pc ∧ t.cur = s.cur ∧ t.eq = s.eq ∧
    t.run = s.run ∧ t.fault = s.fault ∧ t.events = s.events

/-- R120: the launch state holds the launch image, all 256 bytes of it, and is the reset state in every other field. The open
image is the spec's decision D16 (log 1). -/
def Obligations.LaunchStateHoldsTheImage : Prop :=
  ∀ memInit : Vector Byte 256, (∀ a : Addr, (State.launch memInit).mem.read a = memInit.get a.toFin) ∧
    { State.launch memInit with mem := [] } = State.reset

/-- The model's own interface (log 6): an opcode-table word placed where the next tick fetches it is what that tick runs. -/
def Obligations.PlacedWordIsTheOneExecuted : Prop :=
  ∀ (s : State) (nbits w : Nat) (i : Instr), decodeTableWord nbits w = some i →
    step (s.withFetchWord nbits w) = exec i (s.withFetchWord nbits w).fetch ∧
      (s.withFetchWord nbits w).pc = s.pc ∧ RegsKeptBut [] s (s.withFetchWord nbits w)

/-- The invariant holds after reset, and at every launch, whatever the image (log 15). -/
def Obligations.LaunchMeetsTheInvariant : Prop :=
  CoreInv State.reset ∧ ∀ memInit : Vector Byte 256, CoreInv (State.launch memInit)

/-- Every step from a state that meets the invariant gives a state that meets it: memory stays canonical (R33), the latch is
what DecodeError left (R30, R102), a normal end stands at a HALT (R97). The latch is the spec's decision D8 (logs 8 and 15). -/
def Obligations.EveryStepKeepsTheInvariant : Prop :=
  ∀ s t : State, CoreInv s → step s = .next t → CoreInv t

/-- Whatever image is launched and whatever the host does between ticks (R117), in any order and number, the machine has a
next state and meets the invariant. Over the runs from launch. Host events stand beside the step and never inside one (log 16);
that a tick has a next state is log 4, the latch the spec's decision D8 (log 8), the invariant log 15. -/
def Obligations.EveryHostLifecycleMeetsTheInvariant : Prop :=
  ∀ (memInit : Vector Byte 256) (es : List HostEvent),
    ∃ t, transactAll es (State.launch memInit) = .next t ∧ CoreInv t

/-- Every host event (`Reset`, `HostWrite`, `Tick`) that answers a next state from a state that meets the invariant, reached by
a run or not, answers one that meets it (R115, R117, R118). Host events beside the step: log 16; the latch: the spec's
decision D8 (log 8); the invariant: log 15. -/
def Obligations.EveryHostEventKeepsTheInvariant : Prop :=
  ∀ (s t : State) (e : HostEvent), CoreInv s → transact e s = .next t → CoreInv t

/-- R30: a latch that is set stays as it is, and the CORE HALTED, under everything the host can do but `Reset`. From states
that meet the invariant. The latch is the spec's decision D8 (log 8). -/
def Obligations.TheLatchIsClearedOnlyByReset : Prop :=
  ∀ (s : State) (d : DecodeError), CoreInv s → s.fault = some d →
    ∀ es : List HostEvent, .reset ∉ es →
      ∃ t, transactAll es s = .next t ∧ t.fault = some d ∧ t.endedFatally d.opcode d.pc ∧ t.pc = s.pc ∧
        RegsKeptBut [] s t ∧ t.events = s.events
end

