-- ==== Sys2Proof/Laws/State.lean ====
section
/-! SUPPORT. One lemma per field per update of the state, true by `rfl`, and the reads of general registers through each
update, so that no later proof unfolds a record update. -/

namespace Sys2Proof.Machine.State

/-! ### setReg -/

@[simp] theorem setReg_mem (s : State) (r : RegId) (v : Byte) : (s.setReg r v).mem = s.mem := rfl
@[simp] theorem setReg_x (s : State) (r : RegId) (v : Byte) : (s.setReg r v).x = s.x.set r.toNat v r.isLt := rfl
@[simp] theorem setReg_pc (s : State) (r : RegId) (v : Byte) : (s.setReg r v).pc = s.pc := rfl
@[simp] theorem setReg_mar (s : State) (r : RegId) (v : Byte) : (s.setReg r v).mar = s.mar := rfl
@[simp] theorem setReg_mdr (s : State) (r : RegId) (v : Byte) : (s.setReg r v).mdr = s.mdr := rfl
@[simp] theorem setReg_cur (s : State) (r : RegId) (v : Byte) : (s.setReg r v).cur = s.cur := rfl
@[simp] theorem setReg_eq (s : State) (r : RegId) (v : Byte) : (s.setReg r v).eq = s.eq := rfl
@[simp] theorem setReg_run (s : State) (r : RegId) (v : Byte) : (s.setReg r v).run = s.run := rfl
@[simp] theorem setReg_fault (s : State) (r : RegId) (v : Byte) : (s.setReg r v).fault = s.fault := rfl
@[simp] theorem setReg_events (s : State) (r : RegId) (v : Byte) : (s.setReg r v).events = s.events := rfl

/-! ### setCurReg -/

@[simp] theorem setCurReg_mem (s : State) (v : Byte) : (s.setCurReg v).mem = s.mem := rfl
@[simp] theorem setCurReg_x (s : State) (v : Byte) : (s.setCurReg v).x = s.x.set s.cur.toNat v s.cur.isLt := rfl
@[simp] theorem setCurReg_pc (s : State) (v : Byte) : (s.setCurReg v).pc = s.pc := rfl
@[simp] theorem setCurReg_mar (s : State) (v : Byte) : (s.setCurReg v).mar = s.mar := rfl
@[simp] theorem setCurReg_mdr (s : State) (v : Byte) : (s.setCurReg v).mdr = s.mdr := rfl
@[simp] theorem setCurReg_cur (s : State) (v : Byte) : (s.setCurReg v).cur = s.cur := rfl
@[simp] theorem setCurReg_eq (s : State) (v : Byte) : (s.setCurReg v).eq = s.eq := rfl
@[simp] theorem setCurReg_run (s : State) (v : Byte) : (s.setCurReg v).run = s.run := rfl
@[simp] theorem setCurReg_fault (s : State) (v : Byte) : (s.setCurReg v).fault = s.fault := rfl
@[simp] theorem setCurReg_events (s : State) (v : Byte) : (s.setCurReg v).events = s.events := rfl

/-! ### select -/

@[simp] theorem select_mem (s : State) (r : RegId) : (s.select r).mem = s.mem := rfl
@[simp] theorem select_x (s : State) (r : RegId) : (s.select r).x = s.x := rfl
@[simp] theorem select_pc (s : State) (r : RegId) : (s.select r).pc = s.pc := rfl
@[simp] theorem select_mar (s : State) (r : RegId) : (s.select r).mar = s.mar := rfl
@[simp] theorem select_mdr (s : State) (r : RegId) : (s.select r).mdr = s.mdr := rfl
@[simp] theorem select_cur (s : State) (r : RegId) : (s.select r).cur = r := rfl
@[simp] theorem select_eq (s : State) (r : RegId) : (s.select r).eq = s.eq := rfl
@[simp] theorem select_run (s : State) (r : RegId) : (s.select r).run = s.run := rfl
@[simp] theorem select_fault (s : State) (r : RegId) : (s.select r).fault = s.fault := rfl
@[simp] theorem select_events (s : State) (r : RegId) : (s.select r).events = s.events := rfl
@[simp] theorem select_getReg (s : State) (r : RegId) (q : RegId) : (s.select r).getReg q = s.getReg q := rfl

/-! ### jumpTo -/

@[simp] theorem jumpTo_mem (s : State) (a : Addr) : (s.jumpTo a).mem = s.mem := rfl
@[simp] theorem jumpTo_x (s : State) (a : Addr) : (s.jumpTo a).x = s.x := rfl
@[simp] theorem jumpTo_pc (s : State) (a : Addr) : (s.jumpTo a).pc = a := rfl
@[simp] theorem jumpTo_mar (s : State) (a : Addr) : (s.jumpTo a).mar = s.mar := rfl
@[simp] theorem jumpTo_mdr (s : State) (a : Addr) : (s.jumpTo a).mdr = s.mdr := rfl
@[simp] theorem jumpTo_cur (s : State) (a : Addr) : (s.jumpTo a).cur = s.cur := rfl
@[simp] theorem jumpTo_eq (s : State) (a : Addr) : (s.jumpTo a).eq = s.eq := rfl
@[simp] theorem jumpTo_run (s : State) (a : Addr) : (s.jumpTo a).run = s.run := rfl
@[simp] theorem jumpTo_fault (s : State) (a : Addr) : (s.jumpTo a).fault = s.fault := rfl
@[simp] theorem jumpTo_events (s : State) (a : Addr) : (s.jumpTo a).events = s.events := rfl
@[simp] theorem jumpTo_getReg (s : State) (a : Addr) (q : RegId) : (s.jumpTo a).getReg q = s.getReg q := rfl

/-! ### advance -/

@[simp] theorem advance_mem (s : State) (w : Nat) : (s.advance w).mem = s.mem := rfl
@[simp] theorem advance_x (s : State) (w : Nat) : (s.advance w).x = s.x := rfl
@[simp] theorem advance_pc (s : State) (w : Nat) : (s.advance w).pc = s.pc + BitVec.ofNat 8 w := rfl
@[simp] theorem advance_mar (s : State) (w : Nat) : (s.advance w).mar = s.mar := rfl
@[simp] theorem advance_mdr (s : State) (w : Nat) : (s.advance w).mdr = s.mdr := rfl
@[simp] theorem advance_cur (s : State) (w : Nat) : (s.advance w).cur = s.cur := rfl
@[simp] theorem advance_eq (s : State) (w : Nat) : (s.advance w).eq = s.eq := rfl
@[simp] theorem advance_run (s : State) (w : Nat) : (s.advance w).run = s.run := rfl
@[simp] theorem advance_fault (s : State) (w : Nat) : (s.advance w).fault = s.fault := rfl
@[simp] theorem advance_events (s : State) (w : Nat) : (s.advance w).events = s.events := rfl
@[simp] theorem advance_getReg (s : State) (w : Nat) (q : RegId) : (s.advance w).getReg q = s.getReg q := rfl

/-! ### setEq -/

@[simp] theorem setEq_mem (s : State) (b : Bool) : (s.setEq b).mem = s.mem := rfl
@[simp] theorem setEq_x (s : State) (b : Bool) : (s.setEq b).x = s.x := rfl
@[simp] theorem setEq_pc (s : State) (b : Bool) : (s.setEq b).pc = s.pc := rfl
@[simp] theorem setEq_mar (s : State) (b : Bool) : (s.setEq b).mar = s.mar := rfl
@[simp] theorem setEq_mdr (s : State) (b : Bool) : (s.setEq b).mdr = s.mdr := rfl
@[simp] theorem setEq_cur (s : State) (b : Bool) : (s.setEq b).cur = s.cur := rfl
@[simp] theorem setEq_eq (s : State) (b : Bool) : (s.setEq b).eq = b := rfl
@[simp] theorem setEq_run (s : State) (b : Bool) : (s.setEq b).run = s.run := rfl
@[simp] theorem setEq_fault (s : State) (b : Bool) : (s.setEq b).fault = s.fault := rfl
@[simp] theorem setEq_events (s : State) (b : Bool) : (s.setEq b).events = s.events := rfl
@[simp] theorem setEq_getReg (s : State) (b : Bool) (q : RegId) : (s.setEq b).getReg q = s.getReg q := rfl

/-! ### halt -/

@[simp] theorem halt_mem (s : State) : (s.halt).mem = s.mem := rfl
@[simp] theorem halt_x (s : State) : (s.halt).x = s.x := rfl
@[simp] theorem halt_pc (s : State) : (s.halt).pc = s.pc := rfl
@[simp] theorem halt_mar (s : State) : (s.halt).mar = s.mar := rfl
@[simp] theorem halt_mdr (s : State) : (s.halt).mdr = s.mdr := rfl
@[simp] theorem halt_cur (s : State) : (s.halt).cur = s.cur := rfl
@[simp] theorem halt_eq (s : State) : (s.halt).eq = s.eq := rfl
@[simp] theorem halt_run (s : State) : (s.halt).run = .halted := rfl
@[simp] theorem halt_fault (s : State) : (s.halt).fault = s.fault := rfl
@[simp] theorem halt_events (s : State) : (s.halt).events = s.events := rfl
@[simp] theorem halt_getReg (s : State) (q : RegId) : (s.halt).getReg q = s.getReg q := rfl

/-! ### emit -/

@[simp] theorem emit_mem (s : State) (e : Event) : (s.emit e).mem = s.mem := rfl
@[simp] theorem emit_x (s : State) (e : Event) : (s.emit e).x = s.x := rfl
@[simp] theorem emit_pc (s : State) (e : Event) : (s.emit e).pc = s.pc := rfl
@[simp] theorem emit_mar (s : State) (e : Event) : (s.emit e).mar = s.mar := rfl
@[simp] theorem emit_mdr (s : State) (e : Event) : (s.emit e).mdr = s.mdr := rfl
@[simp] theorem emit_cur (s : State) (e : Event) : (s.emit e).cur = s.cur := rfl
@[simp] theorem emit_eq (s : State) (e : Event) : (s.emit e).eq = s.eq := rfl
@[simp] theorem emit_run (s : State) (e : Event) : (s.emit e).run = s.run := rfl
@[simp] theorem emit_fault (s : State) (e : Event) : (s.emit e).fault = s.fault := rfl
@[simp] theorem emit_events (s : State) (e : Event) : (s.emit e).events = s.events ++ [e] := rfl
@[simp] theorem emit_getReg (s : State) (e : Event) (q : RegId) : (s.emit e).getReg q = s.getReg q := rfl

/-! ### load -/

@[simp] theorem load_mem (s : State) (a : Addr) : (s.load a).mem = s.mem := rfl
@[simp] theorem load_x (s : State) (a : Addr) : (s.load a).x = s.x := rfl
@[simp] theorem load_pc (s : State) (a : Addr) : (s.load a).pc = s.pc := rfl
@[simp] theorem load_mar (s : State) (a : Addr) : (s.load a).mar = a := rfl
@[simp] theorem load_mdr (s : State) (a : Addr) : (s.load a).mdr = s.mem.read a := rfl
@[simp] theorem load_cur (s : State) (a : Addr) : (s.load a).cur = s.cur := rfl
@[simp] theorem load_eq (s : State) (a : Addr) : (s.load a).eq = s.eq := rfl
@[simp] theorem load_run (s : State) (a : Addr) : (s.load a).run = s.run := rfl
@[simp] theorem load_fault (s : State) (a : Addr) : (s.load a).fault = s.fault := rfl
@[simp] theorem load_events (s : State) (a : Addr) : (s.load a).events = s.events := rfl
@[simp] theorem load_getReg (s : State) (a : Addr) (q : RegId) : (s.load a).getReg q = s.getReg q := rfl

/-! ### store -/

@[simp] theorem store_mem (s : State) (a : Addr) (v : Byte) : (s.store a v).mem = s.mem.write a v := rfl
@[simp] theorem store_x (s : State) (a : Addr) (v : Byte) : (s.store a v).x = s.x := rfl
@[simp] theorem store_pc (s : State) (a : Addr) (v : Byte) : (s.store a v).pc = s.pc := rfl
@[simp] theorem store_mar (s : State) (a : Addr) (v : Byte) : (s.store a v).mar = a := rfl
@[simp] theorem store_mdr (s : State) (a : Addr) (v : Byte) : (s.store a v).mdr = v := rfl
@[simp] theorem store_cur (s : State) (a : Addr) (v : Byte) : (s.store a v).cur = s.cur := rfl
@[simp] theorem store_eq (s : State) (a : Addr) (v : Byte) : (s.store a v).eq = s.eq := rfl
@[simp] theorem store_run (s : State) (a : Addr) (v : Byte) : (s.store a v).run = s.run := rfl
@[simp] theorem store_fault (s : State) (a : Addr) (v : Byte) : (s.store a v).fault = s.fault := rfl
@[simp] theorem store_events (s : State) (a : Addr) (v : Byte) : (s.store a v).events = s.events := rfl
@[simp] theorem store_getReg (s : State) (a : Addr) (v : Byte) (q : RegId) : (s.store a v).getReg q = s.getReg q := rfl

/-! ### fetch -/

@[simp] theorem fetch_mem (s : State) : (s.fetch).mem = s.mem := rfl
@[simp] theorem fetch_x (s : State) : (s.fetch).x = s.x := rfl
@[simp] theorem fetch_pc (s : State) : (s.fetch).pc = s.pc := rfl
@[simp] theorem fetch_mar (s : State) : (s.fetch).mar = s.pc := rfl
@[simp] theorem fetch_mdr (s : State) : (s.fetch).mdr = s.mem.read s.pc := rfl
@[simp] theorem fetch_cur (s : State) : (s.fetch).cur = s.cur := rfl
@[simp] theorem fetch_eq (s : State) : (s.fetch).eq = s.eq := rfl
@[simp] theorem fetch_run (s : State) : (s.fetch).run = s.run := rfl
@[simp] theorem fetch_fault (s : State) : (s.fetch).fault = s.fault := rfl
@[simp] theorem fetch_events (s : State) : (s.fetch).events = s.events := rfl
@[simp] theorem fetch_getReg (s : State) (q : RegId) : (s.fetch).getReg q = s.getReg q := rfl

/-! ### raiseDecodeError -/

@[simp] theorem raiseDecodeError_mem (s : State) (op : Byte) (p : Addr) : (s.raiseDecodeError op p).mem = s.mem := rfl
@[simp] theorem raiseDecodeError_x (s : State) (op : Byte) (p : Addr) : (s.raiseDecodeError op p).x = s.x := rfl
@[simp] theorem raiseDecodeError_pc (s : State) (op : Byte) (p : Addr) : (s.raiseDecodeError op p).pc = s.pc := rfl
@[simp] theorem raiseDecodeError_mar (s : State) (op : Byte) (p : Addr) : (s.raiseDecodeError op p).mar = s.mar := rfl
@[simp] theorem raiseDecodeError_mdr (s : State) (op : Byte) (p : Addr) : (s.raiseDecodeError op p).mdr = s.mdr := rfl
@[simp] theorem raiseDecodeError_cur (s : State) (op : Byte) (p : Addr) : (s.raiseDecodeError op p).cur = s.cur := rfl
@[simp] theorem raiseDecodeError_eq (s : State) (op : Byte) (p : Addr) : (s.raiseDecodeError op p).eq = s.eq := rfl
@[simp] theorem raiseDecodeError_run (s : State) (op : Byte) (p : Addr) : (s.raiseDecodeError op p).run = .halted := rfl
@[simp] theorem raiseDecodeError_fault (s : State) (op : Byte) (p : Addr) : (s.raiseDecodeError op p).fault = some ⟨op, p⟩ := rfl
@[simp] theorem raiseDecodeError_events (s : State) (op : Byte) (p : Addr) : (s.raiseDecodeError op p).events = s.events ++ [.err op p] := rfl
@[simp] theorem raiseDecodeError_getReg (s : State) (op : Byte) (p : Addr) (q : RegId) : (s.raiseDecodeError op p).getReg q = s.getReg q := rfl

/-! ### hostWrite -/

@[simp] theorem hostWrite_mem (s : State) (a : Addr) (v : Byte) : (s.hostWrite a v).mem = s.mem.write a v := rfl
@[simp] theorem hostWrite_x (s : State) (a : Addr) (v : Byte) : (s.hostWrite a v).x = s.x := rfl
@[simp] theorem hostWrite_pc (s : State) (a : Addr) (v : Byte) : (s.hostWrite a v).pc = s.pc := rfl
@[simp] theorem hostWrite_mar (s : State) (a : Addr) (v : Byte) : (s.hostWrite a v).mar = s.mar := rfl
@[simp] theorem hostWrite_mdr (s : State) (a : Addr) (v : Byte) : (s.hostWrite a v).mdr = s.mdr := rfl
@[simp] theorem hostWrite_cur (s : State) (a : Addr) (v : Byte) : (s.hostWrite a v).cur = s.cur := rfl
@[simp] theorem hostWrite_eq (s : State) (a : Addr) (v : Byte) : (s.hostWrite a v).eq = s.eq := rfl
@[simp] theorem hostWrite_run (s : State) (a : Addr) (v : Byte) : (s.hostWrite a v).run = s.run := rfl
@[simp] theorem hostWrite_fault (s : State) (a : Addr) (v : Byte) : (s.hostWrite a v).fault = s.fault := rfl
@[simp] theorem hostWrite_events (s : State) (a : Addr) (v : Byte) : (s.hostWrite a v).events = s.events := rfl
@[simp] theorem hostWrite_getReg (s : State) (a : Addr) (v : Byte) (q : RegId) : (s.hostWrite a v).getReg q = s.getReg q := rfl

/-! ### operandLoad -/

@[simp] theorem operandLoad_mem (s : State) (k : Nat) (b : Byte) : (s.operandLoad k b).mem = s.mem := rfl
@[simp] theorem operandLoad_x (s : State) (k : Nat) (b : Byte) : (s.operandLoad k b).x = s.x := rfl
@[simp] theorem operandLoad_pc (s : State) (k : Nat) (b : Byte) : (s.operandLoad k b).pc = s.pc := rfl
@[simp] theorem operandLoad_mar (s : State) (k : Nat) (b : Byte) : (s.operandLoad k b).mar = s.pc + BitVec.ofNat 8 k := rfl
@[simp] theorem operandLoad_mdr (s : State) (k : Nat) (b : Byte) : (s.operandLoad k b).mdr = b := rfl
@[simp] theorem operandLoad_cur (s : State) (k : Nat) (b : Byte) : (s.operandLoad k b).cur = s.cur := rfl
@[simp] theorem operandLoad_eq (s : State) (k : Nat) (b : Byte) : (s.operandLoad k b).eq = s.eq := rfl
@[simp] theorem operandLoad_run (s : State) (k : Nat) (b : Byte) : (s.operandLoad k b).run = s.run := rfl
@[simp] theorem operandLoad_fault (s : State) (k : Nat) (b : Byte) : (s.operandLoad k b).fault = s.fault := rfl
@[simp] theorem operandLoad_events (s : State) (k : Nat) (b : Byte) : (s.operandLoad k b).events = s.events := rfl
@[simp] theorem operandLoad_getReg (s : State) (k : Nat) (b : Byte) (q : RegId) : (s.operandLoad k b).getReg q = s.getReg q := rfl

/-! ### operand1 -/

@[simp] theorem operand1_mem (s : State) (b : Byte) : (s.operand1 b).mem = s.mem := rfl
@[simp] theorem operand1_x (s : State) (b : Byte) : (s.operand1 b).x = s.x := rfl
@[simp] theorem operand1_pc (s : State) (b : Byte) : (s.operand1 b).pc = s.pc := rfl
@[simp] theorem operand1_mar (s : State) (b : Byte) : (s.operand1 b).mar = s.pc + 1#8 := rfl
@[simp] theorem operand1_mdr (s : State) (b : Byte) : (s.operand1 b).mdr = b := rfl
@[simp] theorem operand1_cur (s : State) (b : Byte) : (s.operand1 b).cur = s.cur := rfl
@[simp] theorem operand1_eq (s : State) (b : Byte) : (s.operand1 b).eq = s.eq := rfl
@[simp] theorem operand1_run (s : State) (b : Byte) : (s.operand1 b).run = s.run := rfl
@[simp] theorem operand1_fault (s : State) (b : Byte) : (s.operand1 b).fault = s.fault := rfl
@[simp] theorem operand1_events (s : State) (b : Byte) : (s.operand1 b).events = s.events := rfl
@[simp] theorem operand1_getReg (s : State) (b : Byte) (q : RegId) : (s.operand1 b).getReg q = s.getReg q := rfl

/-! ### operands2 -/

@[simp] theorem operands2_mem (s : State) (b1 b2 : Byte) : (s.operands2 b1 b2).mem = s.mem := rfl
@[simp] theorem operands2_x (s : State) (b1 b2 : Byte) : (s.operands2 b1 b2).x = s.x := rfl
@[simp] theorem operands2_pc (s : State) (b1 b2 : Byte) : (s.operands2 b1 b2).pc = s.pc := rfl
@[simp] theorem operands2_mar (s : State) (b1 b2 : Byte) : (s.operands2 b1 b2).mar = s.pc + 2#8 := rfl
@[simp] theorem operands2_mdr (s : State) (b1 b2 : Byte) : (s.operands2 b1 b2).mdr = b2 := rfl
@[simp] theorem operands2_cur (s : State) (b1 b2 : Byte) : (s.operands2 b1 b2).cur = s.cur := rfl
@[simp] theorem operands2_eq (s : State) (b1 b2 : Byte) : (s.operands2 b1 b2).eq = s.eq := rfl
@[simp] theorem operands2_run (s : State) (b1 b2 : Byte) : (s.operands2 b1 b2).run = s.run := rfl
@[simp] theorem operands2_fault (s : State) (b1 b2 : Byte) : (s.operands2 b1 b2).fault = s.fault := rfl
@[simp] theorem operands2_events (s : State) (b1 b2 : Byte) : (s.operands2 b1 b2).events = s.events := rfl
@[simp] theorem operands2_getReg (s : State) (b1 b2 : Byte) (q : RegId) : (s.operands2 b1 b2).getReg q = s.getReg q := rfl

/-! ### aluDec -/

@[simp] theorem aluDec_mem (s : State) (r : RegId) : (s.aluDec (.general r)).mem = s.mem := rfl
@[simp] theorem aluDec_x (s : State) (r : RegId) : (s.aluDec (.general r)).x = s.x.set r.toNat (s.getReg r - 1#8) r.isLt := rfl
@[simp] theorem aluDec_pc (s : State) (r : RegId) : (s.aluDec (.general r)).pc = s.pc := rfl
@[simp] theorem aluDec_mar (s : State) (r : RegId) : (s.aluDec (.general r)).mar = s.mar := rfl
@[simp] theorem aluDec_mdr (s : State) (r : RegId) : (s.aluDec (.general r)).mdr = s.mdr := rfl
@[simp] theorem aluDec_cur (s : State) (r : RegId) : (s.aluDec (.general r)).cur = s.cur := rfl
@[simp] theorem aluDec_eq (s : State) (r : RegId) : (s.aluDec (.general r)).eq = s.eq := rfl
@[simp] theorem aluDec_run (s : State) (r : RegId) : (s.aluDec (.general r)).run = s.run := rfl
@[simp] theorem aluDec_fault (s : State) (r : RegId) : (s.aluDec (.general r)).fault = s.fault := rfl
@[simp] theorem aluDec_events (s : State) (r : RegId) : (s.aluDec (.general r)).events = s.events := rfl

/-! ### aluInc -/

@[simp] theorem aluInc_mem (s : State) (r : RegId) : (s.aluInc (.general r)).mem = s.mem := rfl
@[simp] theorem aluInc_x (s : State) (r : RegId) : (s.aluInc (.general r)).x = s.x.set r.toNat (s.getReg r + 1#8) r.isLt := rfl
@[simp] theorem aluInc_pc (s : State) (r : RegId) : (s.aluInc (.general r)).pc = s.pc := rfl
@[simp] theorem aluInc_mar (s : State) (r : RegId) : (s.aluInc (.general r)).mar = s.mar := rfl
@[simp] theorem aluInc_mdr (s : State) (r : RegId) : (s.aluInc (.general r)).mdr = s.mdr := rfl
@[simp] theorem aluInc_cur (s : State) (r : RegId) : (s.aluInc (.general r)).cur = s.cur := rfl
@[simp] theorem aluInc_eq (s : State) (r : RegId) : (s.aluInc (.general r)).eq = s.eq := rfl
@[simp] theorem aluInc_run (s : State) (r : RegId) : (s.aluInc (.general r)).run = s.run := rfl
@[simp] theorem aluInc_fault (s : State) (r : RegId) : (s.aluInc (.general r)).fault = s.fault := rfl
@[simp] theorem aluInc_events (s : State) (r : RegId) : (s.aluInc (.general r)).events = s.events := rfl

/-! ### aluCmp -/

@[simp] theorem aluCmp_mem (s : State) (a b : RegId) : (s.aluCmp a b).mem = s.mem := rfl
@[simp] theorem aluCmp_x (s : State) (a b : RegId) : (s.aluCmp a b).x = s.x := rfl
@[simp] theorem aluCmp_pc (s : State) (a b : RegId) : (s.aluCmp a b).pc = s.pc := rfl
@[simp] theorem aluCmp_mar (s : State) (a b : RegId) : (s.aluCmp a b).mar = s.mar := rfl
@[simp] theorem aluCmp_mdr (s : State) (a b : RegId) : (s.aluCmp a b).mdr = s.mdr := rfl
@[simp] theorem aluCmp_cur (s : State) (a b : RegId) : (s.aluCmp a b).cur = s.cur := rfl
@[simp] theorem aluCmp_eq (s : State) (a b : RegId) : (s.aluCmp a b).eq = equalFlag (s.getReg a) (s.getReg b) := rfl
@[simp] theorem aluCmp_run (s : State) (a b : RegId) : (s.aluCmp a b).run = s.run := rfl
@[simp] theorem aluCmp_fault (s : State) (a b : RegId) : (s.aluCmp a b).fault = s.fault := rfl
@[simp] theorem aluCmp_events (s : State) (a b : RegId) : (s.aluCmp a b).events = s.events := rfl
@[simp] theorem aluCmp_getReg (s : State) (a b : RegId) (q : RegId) : (s.aluCmp a b).getReg q = s.getReg q := rfl

/-! ### hostReset -/

@[simp] theorem hostReset_mem (s : State) : (s.hostReset).mem = s.mem := rfl
@[simp] theorem hostReset_x (s : State) : (s.hostReset).x = Vector.replicate Config.numGpr Config.gprReset := rfl
@[simp] theorem hostReset_pc (s : State) : (s.hostReset).pc = Config.resetVector := rfl
@[simp] theorem hostReset_mar (s : State) : (s.hostReset).mar = Config.marReset := rfl
@[simp] theorem hostReset_mdr (s : State) : (s.hostReset).mdr = Config.mdrReset := rfl
@[simp] theorem hostReset_cur (s : State) : (s.hostReset).cur = Config.curRegReset := rfl
@[simp] theorem hostReset_eq (s : State) : (s.hostReset).eq = false := rfl
@[simp] theorem hostReset_run (s : State) : (s.hostReset).run = .running := rfl
@[simp] theorem hostReset_fault (s : State) : (s.hostReset).fault = none := rfl
@[simp] theorem hostReset_events (s : State) : (s.hostReset).events = s.events := rfl

/-! ### Reading a general register after writing one -/

@[simp] theorem setReg_getReg (s : State) (r : RegId) (v : Byte) (q : RegId) :
    (s.setReg r v).getReg q = if q = r then v else s.getReg q := by
  simp only [getReg, setReg, Vector.getElem_set, BitVec.toNat_inj, eq_comm]

@[simp] theorem setCurReg_getReg (s : State) (v : Byte) (q : RegId) :
    (s.setCurReg v).getReg q = if q = s.cur then v else s.getReg q := setReg_getReg s s.cur v q

@[simp] theorem aluDec_getReg (s : State) (r q : RegId) :
    (s.aluDec (.general r)).getReg q = if q = r then s.getReg r - 1#8 else s.getReg q := setReg_getReg s r _ q

@[simp] theorem aluInc_getReg (s : State) (r q : RegId) :
    (s.aluInc (.general r)).getReg q = if q = r then s.getReg r + 1#8 else s.getReg q := setReg_getReg s r _ q

@[simp] theorem reset_getReg (q : RegId) : State.reset.getReg q = Config.gprReset := by
  simp only [getReg, State.reset, Vector.getElem_replicate]

@[simp] theorem hostReset_getReg (s : State) (q : RegId) : s.hostReset.getReg q = Config.gprReset := reset_getReg q

/-- `x[cur]` is the general register `cur` (R26). -/
@[simp] theorem getCur_eq (s : State) : s.getCur = s.getReg s.cur := rfl

/-- SP is general register 255 (R18). -/
@[simp] theorem sp_eq (s : State) : s.sp = s.getReg Config.spIndex := rfl

/-- The general register that PUSH and POP update is SP (R73). -/
@[simp] theorem spTarget_eq : spTarget = .general Config.spIndex := rfl

/-- Two register files that read alike are the same. -/
theorem x_ext {s t : State} (h : ∀ r, s.getReg r = t.getReg r) : s.x = t.x := by
  apply Vector.ext
  intro i hi
  have hr := h (BitVec.ofNat 8 i)
  simp only [getReg, BitVec.toNat_ofNat] at hr
  have : i % 2 ^ 8 = i := Nat.mod_eq_of_lt hi
  simpa only [this] using hr

end Sys2Proof.Machine.State
end

