-- ==== Sys2Proof/Laws/Memory.lean ====
section
/-! SUPPORT. The laws of memory (spec/20_memory.md R33 to R37): a read after a write, the canonical form kept, and equal
contents in canonical form are equal data. The read laws hold of every list of cells, in canonical form or not. -/

namespace Sys2Proof.Machine.Memory

theorem lookup_eraseCell (m : Memory) (k a : Nat) :
    (m.eraseCell k).lookup a = if a = k then Config.unlistedByte else m.lookup a := by
  induction m with
  | nil => simp [eraseCell, lookup]
  | cons c rest ih =>
    obtain ⟨j, v⟩ := c
    simp only [eraseCell] at ih
    by_cases hj : j = k
    · simp only [eraseCell, List.filter_cons, hj, lookup]
      rw [if_neg (by simp), ih]
      split <;> simp_all [eq_comm]
    · simp only [eraseCell, List.filter_cons, lookup]
      rw [if_pos (by simpa using hj)]
      simp only [lookup, ih]
      split <;> simp_all

theorem lookup_insertCell (m : Memory) (k a : Nat) (v : Byte) (h : ∀ c ∈ m, c.1 ≠ k) :
    (m.insertCell (k, v)).lookup a = if a = k then v else m.lookup a := by
  induction m with
  | nil => simp [insertCell, lookup, eq_comm]
  | cons d rest ih =>
    obtain ⟨j, w⟩ := d
    have hj : j ≠ k := h (j, w) (by simp)
    have ih := ih (fun c hc => h c (by simp [hc]))
    simp only [insertCell]
    split
    · simp only [lookup, eq_comm]
    · simp only [lookup, ih]
      split <;> simp_all

theorem mem_eraseCell {m : Memory} {k : Nat} {c : Host.Cell} : c ∈ m.eraseCell k ↔ c ∈ m ∧ c.1 ≠ k := by
  simp [eraseCell]

theorem mem_insertCell {m : Memory} {c d : Host.Cell} : c ∈ m.insertCell d ↔ c = d ∨ c ∈ m := by
  induction m with
  | nil => simp [insertCell]
  | cons e rest ih =>
    simp only [insertCell]
    split
    · simp
    · simp [ih]; tauto

/-- A read after a write (R36, R37): the cell written holds the byte, every other cell what it held. -/
@[simp] theorem read_write (m : Memory) (a b : Addr) (v : Byte) :
    (m.write a v).read b = if b = a then v else m.read b := by
  simp only [read, write]
  have hab : (b.toNat = a.toNat) ↔ b = a := BitVec.toNat_inj
  split
  · rw [lookup_eraseCell]; simp_all
  · rw [lookup_insertCell _ _ _ _ (fun c hc => (mem_eraseCell.1 hc).2), lookup_eraseCell]
    split <;> simp_all

@[simp] theorem read_nil (a : Addr) : Memory.read [] a = Config.unlistedByte := rfl

theorem wf_nil : Memory.wf [] := ⟨List.Pairwise.nil, by simp⟩

theorem wf_eraseCell {m : Memory} (h : m.wf) (k : Nat) : Memory.wf (m.eraseCell k) :=
  ⟨h.1.filter _, fun c hc => h.2 c (mem_eraseCell.1 hc).1⟩

theorem wf_insertCell {m : Memory} (h : m.wf) {c : Host.Cell} (hne : ∀ d ∈ m, d.1 ≠ c.1)
    (hc : c.1 < Config.memSize) (hv : c.2 ≠ Config.unlistedByte) : Memory.wf (m.insertCell c) := by
  refine ⟨?_, fun d hd => ?_⟩
  · obtain ⟨hp, -⟩ := h
    induction m with
    | nil => simp [insertCell]
    | cons d rest ih =>
      simp only [List.pairwise_cons] at hp
      have hd := hne d (by simp)
      simp only [insertCell]
      split
      · rename_i hlt
        simp only [List.pairwise_cons, List.mem_cons]
        exact ⟨fun e he => he.elim (fun h => h ▸ hlt) (fun h => lt_trans hlt (hp.1 e h)), hp.1, hp.2⟩
      · simp only [List.pairwise_cons, mem_insertCell]
        refine ⟨fun e he => he.elim (fun h => h ▸ by omega) (hp.1 e), ih (fun e he => hne e (by simp [he])) hp.2⟩
  · rcases mem_insertCell.1 hd with rfl | hd
    · exact ⟨hc, hv⟩
    · exact h.2 d hd

/-- A write keeps the canonical form. -/
theorem wf_write {m : Memory} (h : m.wf) (a : Addr) (v : Byte) : Memory.wf (m.write a v) := by
  simp only [write]
  split
  · exact wf_eraseCell h _
  · exact wf_insertCell (wf_eraseCell h _) (fun d hd => (mem_eraseCell.1 hd).2) a.isLt ‹_›

end Sys2Proof.Machine.Memory
end

