-- ==== Sys2Proof/Laws/Decode.lean ====
section
/-! SUPPORT. Facts of the opcode table and the decoder (spec/30_encoding.md R57 to R59). -/

namespace Sys2Proof

/-- No two rows of R58 share an opcode byte, so at most one handler answers. -/
theorem opcodeTable_bytes_distinct : opcodeTable.Pairwise (fun r q => r.byte ≠ q.byte) := by decide

/-- The table's rows are the opcodes' own bytes and widths. -/
theorem opcodeTable_rows : ∀ row ∈ opcodeTable, row.byte = row.op.byte ∧ row.width = row.op.width := by decide

/-- The dispatcher answers each opcode's byte with that opcode. -/
@[simp] theorem dispatch_byte (o : Opcode) : dispatch o.byte = some o := by cases o <;> rfl

/-- A byte the dispatcher answers is the byte of the opcode it answers with. -/
theorem byte_of_dispatch {op : Byte} {o : Opcode} (h : dispatch op = some o) : op = o.byte := by
  simp only [dispatch, Option.map_eq_some_iff] at h
  obtain ⟨row, hrow, rfl⟩ := h
  rw [← (opcodeTable_rows row (List.mem_of_find?_eq_some hrow)).1]
  exact (by simpa using List.find?_some hrow : _ = op).symm

/-- Operand bytes are as many as the width leaves (R57). -/
theorem operands_length (i : Instr) : i.operands.length + 1 = i.opcode.width := by cases i <;> rfl

/-- Instructions are 1 to 3 bytes wide (R7). -/
theorem width_bounds (o : Opcode) : 1 ≤ o.width ∧ o.width ≤ 3 := by cases o <;> decide

/-- Any two bytes hold the operands of any opcode: a fetch is never short of operands. -/
theorem readOperands_of_two (o : Opcode) (b c : Byte) : ∃ r, readOperands o [b, c] = some r := by
  cases o <;> exact ⟨_, rfl⟩

namespace Machine

/-- The bytes of a fetch are rejected for one reason only: the opcode byte has no handler. -/
theorem decode_instrBytes_error {s : State} {e : Rejection} (h : decode s.instrBytes = .error e) :
    dispatch (s.mem.read s.pc) = none ∧ e = .illegalOpcode (s.mem.read s.pc) := by
  simp only [State.instrBytes, decode] at h
  split at h
  · rename_i hd
    exact ⟨hd, by simpa using h.symm⟩
  · rename_i o _
    obtain ⟨r, hr⟩ := readOperands_of_two o (s.mem.read (s.pc + 1#8)) (s.mem.read (s.pc + 2#8))
    simp [hr] at h

/-- An illegal opcode byte at the pc is rejected. -/
theorem decode_instrBytes_illegal {s : State} (h : dispatch (s.mem.read s.pc) = none) :
    decode s.instrBytes = .error (.illegalOpcode (s.mem.read s.pc)) := by
  simp [State.instrBytes, decode, h]

end Machine

end Sys2Proof
end

