-- ==== Sys2Proof/Laws/Exec.lean ====
section
/-! SUPPORT. One equation per meaning, over the shared operations, so that a proof about an instruction starts from it and
the field lemmas of Laws/State.lean; and how a step reaches the meanings. -/

namespace Sys2Proof.Machine

theorem exec_halt (s : State) : exec .halt s = .next s.halt := rfl

theorem exec_init (s : State) : exec .init s = .next ((s.select 0x00#8).advance 1) := rfl

theorem exec_set (r : RegId) (s : State) : exec (.set r) s = .next (((s.operand1 r).select r).advance 2) := rfl

theorem exec_save (imm : Byte) (s : State) :
    exec (.save imm) s = .next (((s.operand1 imm).setCurReg imm).advance 2) := rfl

theorem exec_mul (r1 r2 : RegId) (s : State) :
    exec (.mul r1 r2) s = .next (((s.operands2 r1 r2).setCurReg (s.getReg r1 * s.getReg r2)).advance 3) := rfl

theorem exec_prn (s : State) : exec .prn s = .next ((s.emit (.out (s.getReg s.cur))).advance 1) := rfl

theorem exec_ld (a : Addr) (s : State) :
    exec (.ld a) s = .next ((((s.operand1 a).load a).setCurReg (s.mem.read a)).advance 2) := rfl

theorem exec_st (a : Addr) (s : State) :
    exec (.st a) s = .next (((s.operand1 a).store a (s.getReg s.cur)).advance 2) := rfl

theorem exec_push (s : State) :
    exec .push s = .next
      (((s.aluDec State.spTarget).store (s.aluDec State.spTarget).sp (s.aluDec State.spTarget).getCur).advance 1) := rfl

theorem exec_pop (s : State) :
    exec .pop s = .next ((((s.load s.sp).setCurReg (s.mem.read s.sp)).aluInc State.spTarget).advance 1) := rfl

theorem exec_add (r1 r2 : RegId) (s : State) :
    exec (.add r1 r2) s = .next (((s.operands2 r1 r2).setCurReg (s.getReg r1 + s.getReg r2)).advance 3) := rfl

theorem exec_jmp (a : Addr) (s : State) : exec (.jmp a) s = .next ((s.operand1 a).jumpTo a) := rfl

theorem exec_jeq (a : Addr) (s : State) :
    exec (.jeq a) s = .next ((s.operand1 a).jumpTo (if s.eq then a else s.pc + 2#8)) := rfl

theorem exec_cmp (r : RegId) (s : State) :
    exec (.cmp r) s = .next (((s.operand1 r).aluCmp s.cur r).advance 2) := rfl

/-- The flag is the equality of the two bytes. -/
theorem equalFlag_eq (a b : Byte) : equalFlag a b = decide (a = b) := by
  simp [equalFlag, ← BitVec.toNat_inj, beq_eq_decide]

/-- A step while RUNNING is the running tick of R66. -/
theorem step_running {s : State} (h : s.run = .running) : step s = runningTick s := by
  simp only [step, tick, h]

/-- The operand `Load`s of R69 are those of R38 when memory holds the operand byte where the pc says. -/
theorem operandLoad_eq_load {s : State} {k : Nat} {b : Byte} (h : s.mem.read (s.pc + BitVec.ofNat 8 k) = b) :
    s.operandLoad k b = s.load (s.pc + BitVec.ofNat 8 k) := by
  simp only [State.operandLoad, State.load, h]

/-- Writing bytes changes memory alone. -/
theorem hostWriteBytes_eq (s : State) (a : Addr) (bs : List Byte) :
    s.hostWriteBytes a bs = { s with mem := (s.hostWriteBytes a bs).mem } := by
  induction bs generalizing s a with
  | nil => rfl
  | cons b bs ih =>
    rw [State.hostWriteBytes, ih]
    rfl

/-- Writing bytes keeps memory's canonical form. -/
theorem hostWriteBytes_wf {s : State} (h : s.mem.wf) (a : Addr) (bs : List Byte) :
    (s.hostWriteBytes a bs).mem.wf := by
  induction bs generalizing s a with
  | nil => exact h
  | cons b bs ih => exact ih (s := s.hostWrite a b) (Memory.wf_write h a b) _

end Sys2Proof.Machine
end

