-- ==== Sys2Proof/Laws/PerInstr.lean ====
section
/-! SUPPORT. The family of statements about every instruction, one lemma per constructor: an encoding is as long as the
opcode's width, 1 to 3 bytes, and begins with a byte that dispatches to that opcode (spec/30_encoding.md R51, R57, R58). -/

namespace Sys2Proof.Laws.EncodingShape

def Statement (i : Instr) : Prop :=
  (encode i).length = i.opcode.width ∧ 1 ≤ i.opcode.width ∧ i.opcode.width ≤ 3 ∧
    (encode i).head?.bind dispatch = some i.opcode ∧ i.wellFormed = true

theorem halt : Statement .halt := ⟨rfl, (width_bounds _).1, (width_bounds _).2, rfl, rfl⟩
theorem init : Statement .init := ⟨rfl, (width_bounds _).1, (width_bounds _).2, rfl, rfl⟩
theorem set (r : RegId) : Statement (.set r) := ⟨rfl, (width_bounds _).1, (width_bounds _).2, rfl, rfl⟩
theorem save (imm : Byte) : Statement (.save imm) := ⟨rfl, (width_bounds _).1, (width_bounds _).2, rfl, rfl⟩
theorem mul (r1 r2 : RegId) : Statement (.mul r1 r2) := ⟨rfl, (width_bounds _).1, (width_bounds _).2, rfl, rfl⟩
theorem prn : Statement .prn := ⟨rfl, (width_bounds _).1, (width_bounds _).2, rfl, rfl⟩
theorem ld (a : Addr) : Statement (.ld a) := ⟨rfl, (width_bounds _).1, (width_bounds _).2, rfl, rfl⟩
theorem st (a : Addr) : Statement (.st a) := ⟨rfl, (width_bounds _).1, (width_bounds _).2, rfl, rfl⟩
theorem push : Statement .push := ⟨rfl, (width_bounds _).1, (width_bounds _).2, rfl, rfl⟩
theorem pop : Statement .pop := ⟨rfl, (width_bounds _).1, (width_bounds _).2, rfl, rfl⟩
theorem add (r1 r2 : RegId) : Statement (.add r1 r2) := ⟨rfl, (width_bounds _).1, (width_bounds _).2, rfl, rfl⟩
theorem jmp (a : Addr) : Statement (.jmp a) := ⟨rfl, (width_bounds _).1, (width_bounds _).2, rfl, rfl⟩
theorem jeq (a : Addr) : Statement (.jeq a) := ⟨rfl, (width_bounds _).1, (width_bounds _).2, rfl, rfl⟩
theorem cmp (r : RegId) : Statement (.cmp r) := ⟨rfl, (width_bounds _).1, (width_bounds _).2, rfl, rfl⟩

end Sys2Proof.Laws.EncodingShape
end

