-- ==== Sys2Proof/Tests/Slice0.lean ====
section
/-! SUPPORT. Tests of single steps, with expected results from the spec's own vectors (spec/95_test_vectors.md, named V<n>),
words decoded as R58 writes them, and a witness for the hypotheses of each statement. -/

namespace Sys2Proof.Tests

open Sys2Proof.Machine

/-- The reset state with bytes at `pc` and the pc there; memory holds 0x00 elsewhere. -/
def coreAt (pc : Addr) (bytes : List Byte) : State := { State.reset.hostWriteBytes pc bytes with pc := pc }

/-- The state after one tick, if there is one. -/
def after (s : State) : Option State :=
  match step s with
  | .next t => some t
  | .fault _ => none
  | .refused _ => none

/-- pc, mar and mdr. -/
def addresses (s : State) : Addr × Byte × Byte := (s.pc, s.mar, s.mdr)

/-! ### Well-formedness: the CORE refuses nothing (R56); the convention for programs refuses SET 255 (R27) -/

theorem test_set_255_is_legal : (Instr.set 0xFF#8).wellFormed = true := by decide
theorem test_set_255_breaks_the_convention : (Instr.set 0xFF#8).keepsSetConvention = false := by decide
theorem test_set_254_keeps_the_convention : (Instr.set 0xFE#8).keepsSetConvention = true := by decide

/-! ### Decoding: words written from R58, bit 7 first -/

theorem test_decode_halt : decode [0b00000000#8] = .ok (.halt, []) := by decide
theorem test_decode_init : decode [0b00000001#8] = .ok (.init, []) := by decide
theorem test_decode_set : decode [0b00000010#8, 0b00000101#8] = .ok (.set 5#8, []) := by decide
theorem test_decode_save : decode [0b00000100#8, 0b10000001#8] = .ok (.save 129#8, []) := by decide
theorem test_decode_mul : decode [0b00000101#8, 0b00000001#8, 0b00000010#8] = .ok (.mul 1#8 2#8, []) := by decide
theorem test_decode_prn : decode [0b00000110#8] = .ok (.prn, []) := by decide
theorem test_decode_ld : decode [0b00001000#8, 0b10000000#8] = .ok (.ld 128#8, []) := by decide
theorem test_decode_st : decode [0b00001001#8, 0b10000000#8] = .ok (.st 128#8, []) := by decide
theorem test_decode_push : decode [0b00001010#8] = .ok (.push, []) := by decide
theorem test_decode_pop : decode [0b00001011#8] = .ok (.pop, []) := by decide
theorem test_decode_add : decode [0b00001100#8, 0b00000001#8, 0b00000010#8] = .ok (.add 1#8 2#8, []) := by decide
theorem test_decode_jmp : decode [0b00010001#8, 0b00001100#8] = .ok (.jmp 12#8, []) := by decide
theorem test_decode_jeq : decode [0b00010011#8, 0b00010101#8] = .ok (.jeq 21#8, []) := by decide
theorem test_decode_cmp : decode [0b00010110#8, 0b11111111#8] = .ok (.cmp 255#8, []) := by decide
theorem test_decode_illegal : decode [0x03#8, 0x00#8] = .error (.illegalOpcode 0x03#8) := by decide
theorem test_decode_no_bytes : decode [] = .error .noBytes := by decide
theorem test_decode_missing_operand : decode [0x0C#8, 0x00#8] = .error (.missingOperand 0x0C#8) := by decide
/-- Table words: ADD 1, 2 in 24 bits; SET with no operand bits reads a zero operand. -/
theorem test_table_word_add : decodeTableWord 24 0x02010C = some (.add 1#8 2#8) := by decide
theorem test_table_word_set : decodeTableWord 8 0xFF02 = some (.set 0#8) := by decide

/-! ### Single ticks -/

/-- V2: an illegal byte. -/
theorem test_decode_error :
    (after (coreAt 0x20#8 [0x03#8])).map (fun t => (t.run, t.fault, t.pc, t.mdr, t.events)) =
      some (.halted, some ⟨0x03#8, 0x20#8⟩, 0x20#8, 0x03#8, [.err 0x03#8 0x20#8]) := by decide
/-- V3: one above CMP. -/
theorem test_decode_error_above_cmp :
    (after (coreAt 0x20#8 [0x17#8])).map (·.fault) = some (some ⟨0x17#8, 0x20#8⟩) := by decide
/-- V7. -/
theorem test_init : (after { coreAt 0x10#8 [0x01#8] with cur := 7#8 }).map (fun t => (t.cur, addresses t)) =
    some (0#8, 0x11#8, 0x10#8, 0x01#8) := by decide
/-- V8. -/
theorem test_set : (after (coreAt 0x00#8 [0x02#8, 0x05#8])).map (fun t => (t.cur, addresses t)) =
    some (5#8, 0x02#8, 0x01#8, 0x05#8) := by decide
/-- V11: the operand of an instruction at 0xFF is at 0x00. -/
theorem test_set_wraps : (after (coreAt 0xFF#8 [0x02#8, 0x09#8])).map (fun t => (t.cur, addresses t)) =
    some (9#8, 0x01#8, 0x00#8, 0x09#8) := by decide
/-- V10: SAVE with `cur = 255` sets SP. -/
theorem test_save_sp : (after { coreAt 0x00#8 [0x04#8, 0x80#8] with cur := 0xFF#8 }).map (fun t => (t.sp, t.pc)) =
    some (0x80#8, 0x02#8) := by decide
/-- V12. -/
theorem test_mul :
    (after { ((coreAt 0x00#8 [0x05#8, 0x00#8, 0x01#8]).setReg 0#8 0x2A#8).setReg 1#8 0x2A#8 with cur := 2#8 }).map
      (fun t => (t.getReg 2#8, addresses t)) = some (0xE4#8, 0x03#8, 0x02#8, 0x01#8) := by decide
/-- V14: both operands are the old `x[cur]`. -/
theorem test_mul_old_values : (after ((coreAt 0x00#8 [0x05#8, 0x00#8, 0x00#8]).setReg 0#8 0xFF#8)).map (·.getReg 0#8) =
    some 0x01#8 := by decide
/-- V16: the sum wraps and the flag stays. -/
theorem test_add_wraps :
    (after (((coreAt 0x00#8 [0x0C#8, 0x00#8, 0x01#8]).setReg 0#8 0xFF#8).setReg 1#8 0x01#8)).map
      (fun t => (t.getReg 0#8, t.eq)) = some (0x00#8, false) := by decide
/-- V22: ADD at 0xFE. -/
theorem test_add_at_the_top :
    (after (((coreAt 0xFE#8 [0x0C#8, 0x01#8, 0x02#8]).setReg 1#8 0x05#8).setReg 2#8 0x06#8)).map
      (fun t => (t.getReg 0#8, addresses t)) = some (0x0B#8, 0x01#8, 0x00#8, 0x02#8) := by decide
/-- V19. -/
theorem test_cmp_same : (after ((coreAt 0x00#8 [0x16#8, 0x00#8]).setReg 0#8 0x03#8)).map (fun t => (t.eq, addresses t)) =
    some (true, 0x02#8, 0x01#8, 0x00#8) := by decide
/-- V20. -/
theorem test_cmp_different :
    (after { ((coreAt 0x00#8 [0x16#8, 0x02#8]).setReg 0#8 0x03#8).setReg 2#8 0x04#8 with eq := true }).map (·.eq) =
      some false := by decide
/-- V23: not the byte at the address the byte names. -/
theorem test_ld : (after { ((coreAt 0x00#8 [0x08#8, 0x80#8]).hostWrite 0x80#8 0x2A#8).hostWrite 0x2A#8 0x77#8 with
    cur := 1#8 }).map (fun t => (t.getReg 1#8, addresses t)) = some (0x2A#8, 0x02#8, 0x80#8, 0x2A#8) := by decide
/-- V24: LD of its own opcode byte. -/
theorem test_ld_own_opcode : (after { coreAt 0x20#8 [0x08#8, 0x20#8] with cur := 1#8 }).map (·.getReg 1#8) =
    some 0x08#8 := by decide
/-- V25. -/
theorem test_st : (after ((coreAt 0x00#8 [0x09#8, 0x80#8]).setReg 0#8 0x2A#8)).map
    (fun t => (t.mem.read 0x80#8, addresses t)) = some (0x2A#8, 0x02#8, 0x80#8, 0x2A#8) := by decide
/-- V27: ST of 0x00 into its own operand byte; the list of cells loses it. -/
theorem test_st_own_operand : (after (coreAt 0x30#8 [0x09#8, 0x31#8])).map (fun t => (t.mem, t.pc)) =
    some ([(0x30, 0x09#8)], 0x32#8) := by decide
/-- V28: the first push from SP 0x00 goes to 0xFF. -/
theorem test_push : (after { (coreAt 0x0E#8 [0x0A#8]).setReg 2#8 0xE4#8 with cur := 2#8 }).map
    (fun t => (t.sp, t.mem.read 0xFF#8, addresses t)) = some (0xFF#8, 0xE4#8, 0x0F#8, 0xFF#8, 0xE4#8) := by decide
/-- V31: PUSH of SP stores the decremented SP. -/
theorem test_push_sp : (after { (coreAt 0x00#8 [0x0A#8]).setReg 0xFF#8 0x10#8 with cur := 0xFF#8 }).map
    (fun t => (t.sp, t.mem.read 0x0F#8)) = some (0x0F#8, 0x0F#8) := by decide
/-- V29. -/
theorem test_pop : (after { ((coreAt 0x00#8 [0x0B#8]).setReg 0xFF#8 0xFF#8).hostWrite 0xFF#8 0xE4#8 with cur := 4#8 }).map
    (fun t => (t.getReg 4#8, t.sp, t.mem.read 0xFF#8, addresses t)) =
      some (0xE4#8, 0x00#8, 0xE4#8, 0x01#8, 0xFF#8, 0xE4#8) := by decide +kernel
/-- V32: POP into SP leaves the popped byte plus one. -/
theorem test_pop_sp : (after { ((coreAt 0x00#8 [0x0B#8]).setReg 0xFF#8 0xFE#8).hostWrite 0xFE#8 0x10#8 with
    cur := 0xFF#8 }).map (fun t => (t.sp, t.mar, t.mdr)) = some (0x11#8, 0xFE#8, 0x10#8) := by decide +kernel
/-- V33. -/
theorem test_jmp : (after (coreAt 0x13#8 [0x11#8, 0x0C#8])).map addresses = some (0x0C#8, 0x14#8, 0x0C#8) := by decide
/-- V35. -/
theorem test_jeq_taken : (after { coreAt 0x11#8 [0x13#8, 0x15#8] with eq := true }).map (fun t => (t.eq, addresses t)) =
    some (true, 0x15#8, 0x12#8, 0x15#8) := by decide
/-- V36. -/
theorem test_jeq_not_taken : (after (coreAt 0x11#8 [0x13#8, 0x15#8])).map addresses =
    some (0x13#8, 0x12#8, 0x15#8) := by decide
/-- V38. -/
theorem test_halt : (after (coreAt 0x0E#8 [0x00#8])).map (fun t => (t.run, t.fault, addresses t)) =
    some (.halted, none, 0x0E#8, 0x0E#8, 0x00#8) := by decide
/-- V40, at the address of V39. -/
theorem test_prn : (after { (coreAt 0x0D#8 [0x06#8]).setReg 0xFF#8 0xFE#8 with cur := 0xFF#8 }).map
    (fun t => (t.events, addresses t)) = some ([.out 0xFE#8], 0x0E#8, 0x0D#8, 0x06#8) := by decide
/-- V1: a HALTED core. -/
theorem test_halted_tick : (after (coreAt 0x10#8 [0x06#8]).halt).map (fun t => (t.run, t.events, addresses t)) =
    some (.halted, [], 0x10#8, 0x00#8, 0x00#8) := by decide
/-- V41: the host corrects a byte; the latch stays. -/
theorem test_host_write : (((coreAt 0x04#8 [0x03#8]).raiseDecodeError 0x03#8 0x04#8).hostWrite 0x04#8 0x00#8).mem = [] ∧
    (((coreAt 0x04#8 [0x03#8]).raiseDecodeError 0x03#8 0x04#8).hostWrite 0x04#8 0x00#8).fault =
      some ⟨0x03#8, 0x04#8⟩ := by decide
/-- V6: `Reset` keeps memory. -/
theorem test_host_reset : (((coreAt 0x20#8 [0x03#8]).raiseDecodeError 0x03#8 0x20#8).hostReset).mem = [(0x20, 0x03#8)] ∧
    (((coreAt 0x20#8 [0x03#8]).raiseDecodeError 0x03#8 0x20#8).hostReset).fault = none := by decide
/-- From reset with nothing loaded the first tick executes HALT at 0x00 (R97). -/
theorem test_reset_halts : (after State.reset).map (fun t => (t.run, t.pc, t.fault)) = some (.halted, 0x00#8, none) := by
  decide
/-- An opcode-table word placed at reset is what the first tick runs: MUL 1, 2 from a 24-bit word. -/
theorem test_placed_word : (after (State.reset.withFetchWord 24 0x020105)).map addresses =
    some (0x03#8, 0x02#8, 0x02#8) := by decide

/-! ### Witnesses: states and operands that meet the hypotheses of each statement, for each clause -/

/-- Every opcode byte, at the last address of memory as at the first: the clauses of `IllegalBytesHaveNoHandler`,
`PcAfterEachTick`, `MarAndMdrAfterEachTick`, `EventsOfEachTick`, `HaltStopsTheCore` and the flag statement that ask for a
RUNNING core with a given byte at its pc. -/
theorem witness_any_byte_at_the_pc (op : Byte) : ∀ pc ∈ [0x00#8, 0xFF#8],
    (coreAt pc [op]).run = .running ∧ (coreAt pc [op]).pc = pc ∧ (coreAt pc [op]).mem.read pc = op := by
  intro pc _
  simp [coreAt, State.hostWriteBytes, State.reset]

/-- Illegal bytes at the edges of R59's ranges, and the legal bytes next to them. -/
theorem witness_illegal_bytes : (∀ op ∈ [0x03#8, 0x07#8, 0x0D#8, 0x10#8, 0x12#8, 0x14#8, 0x15#8, 0x17#8, 0xFF#8],
    dispatch op = none) ∧ ∀ op ∈ [0x02#8, 0x04#8, 0x0C#8, 0x11#8, 0x13#8, 0x16#8], dispatch op ≠ none := by decide

/-- `JeqBranchesIffTheFlagIsSet` and the JEQ clause of `PcAfterEachTick`: a state for each value of the flag. -/
theorem witness_flag_values : (State.reset.setEq true).eq = true ∧ State.reset.eq = false := by decide

theorem witness_StepRunsTheDecodedInstruction : (coreAt 0xFF#8 [0x0C#8, 0x01#8, 0x02#8]).run = .running ∧
    decode [(coreAt 0xFF#8 [0x0C#8, 0x01#8, 0x02#8]).mem.read 0xFF#8,
      (coreAt 0xFF#8 [0x0C#8, 0x01#8, 0x02#8]).mem.read (0xFF#8 + 1#8),
      (coreAt 0xFF#8 [0x0C#8, 0x01#8, 0x02#8]).mem.read (0xFF#8 + 2#8)] = .ok (.add 1#8 2#8, []) := by decide

theorem witness_HaltedTicksChangeNothing : State.reset.halt.run = .halted := rfl

/-- The conditional clause of `OnlyAnIllegalOpcodeIsAnException`, and `DecodeErrorIsPrecise`. -/
theorem witness_DecodeErrorIsPrecise : (coreAt 0x20#8 [0x03#8]).run = .running ∧
    dispatch ((coreAt 0x20#8 [0x03#8]).mem.read 0x20#8) = none ∧
    (after (coreAt 0x20#8 [0x03#8])).map (·.fault) ≠ some none := by decide

theorem witness_AddAtTheTopOfMemoryWraps : (coreAt 0xFE#8 [0x0C#8]).run = .running ∧
    (coreAt 0xFE#8 [0x0C#8]).pc = 0xFE#8 ∧ (coreAt 0xFE#8 [0x0C#8]).mem.read 0xFE#8 = 0x0C#8 := by decide

theorem witness_AluIncAndDecWorkInPlace : RegOrSpecial.general 0xFF#8 ≠ .pc ∧
    RegOrSpecial.general 0x00#8 ≠ .general 0xFF#8 := by decide

theorem witness_MemWriteSetsOneCell : (0x00#8 : Addr) ≠ 0xFF#8 := by decide

theorem witness_CanonicalMemoriesThatReadAlikeAreEqual : Memory.wf [(0x00, 0x01#8), (0xFF, 0x02#8)] ∧
    Memory.wf (((Memory.write [] 0xFF#8 0x02#8).write 0x05#8 0x00#8).write 0x00#8 0x01#8) ∧
    ∀ a : Addr, Memory.read [(0x00, 0x01#8), (0xFF, 0x02#8)] a =
      (((Memory.write [] 0xFF#8 0x02#8).write 0x05#8 0x00#8).write 0x00#8 0x01#8).read a := by
  have h : ((Memory.write [] 0xFF#8 0x02#8).write 0x05#8 0x00#8).write 0x00#8 0x01#8 =
      [(0x00, 0x01#8), (0xFF, 0x02#8)] := by decide
  rw [h]
  exact ⟨by decide, by decide, fun _ => rfl⟩

/-- `SaveWritesTheImmediate` and `RegisterTwoFiftyFiveIsTheStackPointer` with `cur = 255`, `PopLoadsFromTheStackPointer` in
both of its cases, `CmpSetsTheFlag` with `r = cur`. -/
theorem witness_cur_is_the_stack_pointer : (State.reset.select 0xFF#8).cur = 0xFF#8 ∧
    (State.reset.select 0xFE#8).cur ≠ 0xFF#8 := by decide

/-- `RegisterTwoFiftyFiveIsTheStackPointer`: one state and one next state for each instruction it names. -/
theorem witness_RegisterTwoFiftyFiveIsTheStackPointer : ∀ i ∈ [Instr.save 0x80#8, .mul 0xFF#8 0x00#8, .add 0xFF#8 0x00#8,
    .ld 0xFF#8, .pop, .push], ∀ cur ∈ [0xFF#8, 0x00#8], ∃ t, exec i (State.reset.select cur) = .next t := by
  intro i hi cur _
  simp only [List.mem_cons, List.not_mem_nil, or_false] at hi
  rcases hi with rfl | rfl | rfl | rfl | rfl | rfl <;> exact ⟨_, rfl⟩

/-- S3 of the spec: ST 0x80 and LD 0x80 at the reset vector. -/
theorem witness_StThenLdRestoresTheRegister : (coreAt 0x00#8 [0x09#8, 0x80#8, 0x08#8, 0x80#8]).run = .running ∧
    [0x00#8, 0x01#8, 0x02#8, 0x03#8].map (coreAt 0x00#8 [0x09#8, 0x80#8, 0x08#8, 0x80#8]).mem.read =
      [0x09#8, 0x80#8, 0x08#8, 0x80#8] ∧ (0x80#8 : Addr) ≠ 0x00#8 + 2#8 ∧ (0x80#8 : Addr) ≠ 0x00#8 + 3#8 := by decide

/-- P4 of the spec, in small: ST into the byte after itself, of 0x00 and of an illegal byte. -/
theorem witness_AStoredByteIsTheNextOneFetched : (coreAt 0x00#8 [0x09#8, 0x02#8]).run = .running ∧
    (coreAt 0x00#8 [0x09#8, 0x02#8]).mem.read 0x00#8 = 0x09#8 ∧
    (coreAt 0x00#8 [0x09#8, 0x02#8]).mem.read (0x00#8 + 1#8) = 0x00#8 + 2#8 ∧
    (coreAt 0x00#8 [0x09#8, 0x02#8]).getReg 0x00#8 = 0x00#8 ∧
    dispatch (((coreAt 0x00#8 [0x09#8, 0x02#8]).setReg 0x00#8 0xFF#8).getReg 0x00#8) = none := by decide

/-- The longest sequence of R94, and the pops into other registers. -/
theorem witness_StackLaw : (List.replicate 256 0x02#8).length ≤ 256 ∧
    (List.replicate 256 0x03#8).length = (List.replicate 256 0x02#8).length ∧
    (∀ r ∈ List.replicate 256 0x02#8, r ≠ 0xFF#8) ∧ (∀ r ∈ List.replicate 256 0x03#8, r ≠ 0xFF#8) :=
  ⟨by rw [List.length_replicate], by rw [List.length_replicate, List.length_replicate],
    fun r hr => by rw [List.eq_of_mem_replicate hr]; decide, fun r hr => by rw [List.eq_of_mem_replicate hr]; decide⟩

/-- `HandlersAdvanceByTheWidth`: an instruction for each of its clauses. -/
theorem witness_HandlersAdvanceByTheWidth : (Instr.add 0xFF#8 0x00#8).opcode ∉ [Opcode.halt, .jmp, .jeq] ∧
    Instr.halt.opcode = .halt ∧ (Instr.jmp 0xFF#8) = .jmp 0xFF#8 ∧ (Instr.jeq 0x00#8) = .jeq 0x00#8 := by decide

theorem witness_HaltStopsTheCore : State.reset.fault = none := rfl

/-- V34. -/
theorem witness_JmpToItselfNeverHalts : (coreAt 0x40#8 [0x11#8, 0x40#8]).run = .running ∧
    (coreAt 0x40#8 [0x11#8, 0x40#8]).mem.read 0x40#8 = 0x11#8 ∧
    (coreAt 0x40#8 [0x11#8, 0x40#8]).mem.read (0x40#8 + 1#8) = 0x40#8 := by decide

/-- A tick that changes `cur`, by SET and by INIT. -/
theorem witness_OnlyInitAndSetWriteTheSelector :
    (after (coreAt 0x00#8 [0x02#8, 0xFF#8])).map (·.cur) = some 0xFF#8 ∧
    (after { coreAt 0x00#8 [0x01#8] with cur := 7#8 }).map (·.cur) = some 0#8 := by decide

theorem witness_MarAndMdrFlowNowhere : State.reset.run = .running := rfl

/-- A tick that changes `x[cur]`, and one that changes `x[255]`. -/
theorem witness_RegistersWrittenByEachTick :
    (after (coreAt 0x00#8 [0x04#8, 0x05#8])).map (·.getReg 0x00#8) = some 0x05#8 ∧
    (after (coreAt 0x00#8 [0x0A#8])).map (·.getReg 0xFF#8) = some 0xFF#8 := by decide

/-- A tick that changes a byte of memory, by ST and by PUSH. -/
theorem witness_OnlyStAndPushWriteMemory :
    (after ((coreAt 0x00#8 [0x09#8, 0x80#8]).setReg 0x00#8 0x05#8)).map (·.mem.read 0x80#8) = some 0x05#8 ∧
    (after ((coreAt 0x00#8 [0x0A#8]).setReg 0x00#8 0x05#8)).map (·.mem.read (0x00#8 - 1#8)) = some 0x05#8 := by decide

/-- A HALTED core and host events other than `Reset`. -/
theorem witness_RunChangesByHaltDecodeErrorAndReset : State.reset.halt.run = .halted ∧ HostEvent.tick ≠ .reset ∧
    HostEvent.hostWrite 0xFF#8 0x00#8 ≠ .reset ∧ (∃ t, transact .tick State.reset.halt = .next t) ∧
    ∃ t, transact (.hostWrite 0xFF#8 0x00#8) State.reset.halt = .next t :=
  ⟨rfl, by decide, by decide, ⟨_, rfl⟩, ⟨_, rfl⟩⟩

theorem witness_PlacedWordIsTheOneExecuted : decodeTableWord 24 0x02010C = some (.add 0x01#8 0x02#8) := by decide

theorem witness_reset_meets_the_invariant : CoreInv State.reset where
  memCanonical := Memory.wf_nil
  latched := by intro d h; cases h
  haltedNormally := by intro h; cases h.1

/-- `EveryStepKeepsTheInvariant`: the reset state, whose step answers a next state. -/
theorem witness_EveryStepKeepsTheInvariant : CoreInv State.reset ∧ ∃ t, step State.reset = .next t :=
  ⟨witness_reset_meets_the_invariant, ⟨_, rfl⟩⟩

/-- `EveryHostEventKeepsTheInvariant`: each of the three events answers a next state from the reset state. -/
theorem witness_EveryHostEventKeepsTheInvariant : CoreInv State.reset ∧
    ∀ e ∈ [HostEvent.reset, .hostWrite 0xFF#8 0x01#8, .tick], ∃ t, transact e State.reset = .next t := by
  refine ⟨witness_reset_meets_the_invariant, fun e he => ?_⟩
  simp only [List.mem_cons, List.not_mem_nil, or_false] at he
  rcases he with rfl | rfl | rfl <;> exact ⟨_, rfl⟩

/-- `TheLatchIsClearedOnlyByReset`: the state V2 leaves meets the invariant with its latch set. -/
theorem witness_TheLatchIsClearedOnlyByReset :
    CoreInv ((coreAt 0x20#8 [0x03#8]).fetch.raiseDecodeError 0x03#8 0x20#8) ∧
    ((coreAt 0x20#8 [0x03#8]).fetch.raiseDecodeError 0x03#8 0x20#8).fault = some ⟨0x03#8, 0x20#8⟩ ∧
    HostEvent.reset ∉ [HostEvent.tick, .hostWrite 0x20#8 0x00#8] := by
  refine ⟨⟨by decide, ?_, ?_⟩, rfl, by decide⟩
  · intro d h
    cases h
    decide
  · intro h
    cases h.2

end Sys2Proof.Tests
end

/-! PROOFS: how a step reaches the meanings. Every tick answers a next state: the state itself while HALTED, DecodeError's at
a byte without a handler, else what the meaning of the instruction at the pc leaves (spec/40_sequencer.md R64 to R70). -/

namespace Sys2Proof

/-- Opcodes with the same byte are the same: no two rows of R58 share one. -/
theorem Opcode.byte_inj {o p : Opcode} : o.byte = p.byte ↔ o = p :=
  ⟨fun h => by simpa using congrArg dispatch h, congrArg Opcode.byte⟩

/-- A byte without a handler is no opcode's byte. -/
theorem ne_byte_of_illegal {op : Byte} (h : dispatch op = none) (o : Opcode) : op ≠ o.byte := by
  rintro rfl
  simp at h

namespace Machine

/-! ### The instruction at the pc and what its meaning leaves -/

/-- The instruction with opcode `o` whose operands are the bytes after the pc, at `pc + 1` and `pc + 2` modulo 256 (R40, R51). -/
def State.instrAt (s : State) : Opcode → Instr
  | .halt => .halt
  | .init => .init
  | .set => .set (s.mem.read (s.pc + 1#8))
  | .save => .save (s.mem.read (s.pc + 1#8))
  | .mul => .mul (s.mem.read (s.pc + 1#8)) (s.mem.read (s.pc + 2#8))
  | .prn => .prn
  | .ld => .ld (s.mem.read (s.pc + 1#8))
  | .st => .st (s.mem.read (s.pc + 1#8))
  | .push => .push
  | .pop => .pop
  | .add => .add (s.mem.read (s.pc + 1#8)) (s.mem.read (s.pc + 2#8))
  | .jmp => .jmp (s.mem.read (s.pc + 1#8))
  | .jeq => .jeq (s.mem.read (s.pc + 1#8))
  | .cmp => .cmp (s.mem.read (s.pc + 1#8))

@[simp] theorem instrAt_opcode (s : State) (o : Opcode) : (s.instrAt o).opcode = o := by cases o <;> rfl

/-- The state that the meaning of `i` leaves. -/
def State.afterExec (s : State) (i : Instr) : State :=
  match exec i s with
  | .next t => t
  | .fault _ => s
  | .refused _ => s

/-- Every meaning answers a next state (R103; log 4). -/
theorem exec_eq_next (i : Instr) (s : State) : exec i s = .next (s.afterExec i) := by cases i <;> rfl

theorem afterExec_of_exec {i : Instr} {s t : State} (h : exec i s = .next t) : s.afterExec i = t := by
  simpa [exec_eq_next] using h

/-! ### The step -/

/-- A HALTED core does nothing (R65). -/
theorem step_halted {s : State} (hrun : s.run = .halted) : step s = .next s := by
  simp only [step, tick, hrun]

/-- At a byte without a handler the step is DecodeError, after the fetch (R102). -/
theorem step_illegal {s : State} (hrun : s.run = .running) (hop : dispatch (s.mem.read s.pc) = none) :
    step s = .next (s.fetch.raiseDecodeError (s.mem.read s.pc) s.pc) := by
  simp [step_running hrun, runningTick, decode_instrBytes_illegal hop]

/-- The decoder reads the instruction at the pc from the bytes of the fetch (R51, R68). -/
theorem decode_instrBytes_of_byte {s : State} {o : Opcode} (hop : s.mem.read s.pc = o.byte) :
    ∃ rest, decode s.instrBytes = .ok (s.instrAt o, rest) := by
  simp only [State.instrBytes, decode, hop, dispatch_byte]
  cases o <;> exact ⟨_, rfl⟩

/-- At the byte of an opcode the step is the meaning of the instruction at the pc, after the fetch (R66 to R69). -/
theorem step_of_byte {s : State} {o : Opcode} (hrun : s.run = .running) (hop : s.mem.read s.pc = o.byte) :
    step s = .next (s.fetch.afterExec (s.instrAt o)) := by
  obtain ⟨rest, hdec⟩ := decode_instrBytes_of_byte hop
  simp only [step_running hrun, runningTick, hdec, exec_eq_next]

/-- What a step that answers `t` can have done. -/
inductive StepCase (s t : State) : Prop where
  /-- Nothing: the core is HALTED (R65). -/
  | halted (hrun : s.run = .halted) (ht : t = s)
  /-- DecodeError: the fetched byte has no handler (R102). -/
  | illegal (hrun : s.run = .running) (hop : dispatch (s.mem.read s.pc) = none)
      (ht : t = s.fetch.raiseDecodeError (s.mem.read s.pc) s.pc)
  /-- The meaning of the instruction at the pc (R69). -/
  | handler (hrun : s.run = .running) (o : Opcode) (hop : s.mem.read s.pc = o.byte)
      (ht : t = s.fetch.afterExec (s.instrAt o))

/-- A byte has no handler, or it is the byte of an opcode (R59). -/
theorem illegal_or_byte (op : Byte) : dispatch op = none ∨ ∃ o : Opcode, op = o.byte := by
  cases h : dispatch op with
  | none => exact .inl rfl
  | some o => exact .inr ⟨o, byte_of_dispatch h⟩

/-- Every state has a step to a next state, and it is one of the three cases. -/
theorem step_total (s : State) : ∃ t, step s = .next t ∧ StepCase s t := by
  cases hrun : s.run with
  | halted => exact ⟨s, step_halted hrun, .halted hrun rfl⟩
  | running =>
    obtain hop | ⟨o, hop⟩ := illegal_or_byte (s.mem.read s.pc)
    · exact ⟨_, step_illegal hrun hop, .illegal hrun hop rfl⟩
    · exact ⟨_, step_of_byte hrun hop, .handler hrun o hop rfl⟩

/-- A step that answers a next state is one of the three cases. -/
theorem stepCase_of_step {s t : State} (h : step s = .next t) : StepCase s t := by
  obtain ⟨u, hu, hcase⟩ := step_total s
  obtain rfl : u = t := by simpa [hu] using h
  exact hcase

/-! ### What the meanings write, field by field -/

/-- No meaning writes the latch: DecodeError alone does, and it is no instruction's (R102, R103). -/
@[simp] theorem afterExec_fault (s : State) (i : Instr) : (s.afterExec i).fault = s.fault := by cases i <;> rfl

/-- Only HALT writes the run state (R29, R97). -/
theorem afterExec_run (s : State) (i : Instr) :
    (s.afterExec i).run = if i.opcode = .halt then .halted else s.run := by cases i <;> rfl

/-- Every meaning keeps memory canonical: ST and PUSH write one cell each, the others none (R35). -/
theorem afterExec_mem_wf {s : State} (h : s.mem.wf) (i : Instr) : (s.afterExec i).mem.wf := by
  cases i with
  | st | push => exact Memory.wf_write h _ _
  | _ => exact h

/-- A meaning but HALT and the jumps moves the pc on by the width of its instruction (R21, R70). -/
theorem afterExec_pc_of_advancing (s : State) {i : Instr} (hi : i.opcode ∉ [Opcode.halt, .jmp, .jeq]) :
    (s.afterExec i).pc = s.pc + BitVec.ofNat 8 i.opcode.width := by
  cases i with
  | halt | jmp | jeq => exact absurd hi (by simp [Instr.opcode])
  | _ => rfl

/-- The general registers that an instruction of each opcode writes (R16). -/
def State.regsWritten (s : State) : Opcode → List RegId
  | .save | .mul | .add | .ld => [s.cur]
  | .push => [Config.spIndex]
  | .pop => [s.cur, Config.spIndex]
  | .halt | .init | .set | .prn | .st | .jmp | .jeq | .cmp => []

/-! The meanings that write general registers, as `afterExec` gives them. -/

@[simp] theorem afterExec_save (s : State) (imm : Byte) :
    s.afterExec (.save imm) = ((s.operand1 imm).setCurReg imm).advance 2 := afterExec_of_exec (exec_save imm s)

@[simp] theorem afterExec_mul (s : State) (r1 r2 : RegId) :
    s.afterExec (.mul r1 r2) = ((s.operands2 r1 r2).setCurReg (s.getReg r1 * s.getReg r2)).advance 3 :=
  afterExec_of_exec (exec_mul r1 r2 s)

@[simp] theorem afterExec_add (s : State) (r1 r2 : RegId) :
    s.afterExec (.add r1 r2) = ((s.operands2 r1 r2).setCurReg (s.getReg r1 + s.getReg r2)).advance 3 :=
  afterExec_of_exec (exec_add r1 r2 s)

@[simp] theorem afterExec_ld (s : State) (a : Addr) :
    s.afterExec (.ld a) = (((s.operand1 a).load a).setCurReg (s.mem.read a)).advance 2 := afterExec_of_exec (exec_ld a s)

@[simp] theorem afterExec_push (s : State) : s.afterExec .push =
    ((s.aluDec State.spTarget).store (s.aluDec State.spTarget).sp (s.aluDec State.spTarget).getCur).advance 1 :=
  afterExec_of_exec (exec_push s)

@[simp] theorem afterExec_pop (s : State) : s.afterExec .pop =
    (((s.load s.sp).setCurReg (s.mem.read s.sp)).aluInc State.spTarget).advance 1 := afterExec_of_exec (exec_pop s)

/-- Every other register keeps its value (R16). -/
theorem afterExec_regsKept (s : State) (i : Instr) : RegsKeptBut (s.regsWritten i.opcode) s (s.afterExec i) := by
  intro r hr
  cases i with
  | save | mul | add | ld =>
    have hcur : r ≠ s.cur := by simpa [State.regsWritten, Instr.opcode] using hr
    simp [hcur]
  | push =>
    have hsp : r ≠ Config.spIndex := by simpa [State.regsWritten, Instr.opcode] using hr
    simp [hsp]
  | pop =>
    obtain ⟨hcur, hsp⟩ : r ≠ s.cur ∧ r ≠ Config.spIndex := by simpa [State.regsWritten, Instr.opcode] using hr
    simp [hcur, hsp]
  | _ => rfl

/-- The flag reaches no meaning but JEQ's: from a state that differs in the flag alone the same is done, and the difference
stays unless the meaning is CMP's (R28). -/
theorem afterExec_setEq (s : State) (b : Bool) {i : Instr} (hi : i.opcode ≠ .jeq) :
    (s.setEq b).afterExec i = (s.afterExec i).setEq (if i.opcode = .cmp then (s.afterExec i).eq else b) := by
  cases i with
  | jeq => exact absurd rfl hi
  | _ => rfl

end Machine

end Sys2Proof

/-! PROOFS: the state (spec/10_state.md). -/

namespace Sys2Proof.Machine

/-! ### The invariant (R30, R33) -/

/-- A RUNNING core that meets the invariant has no latch: a set latch halts (R30). -/
theorem CoreInv.fault_none_of_running {s : State} (h : CoreInv s) (hrun : s.run = .running) : s.fault = none := by
  cases hf : s.fault with
  | none => rfl
  | some d =>
    obtain ⟨hhalted, -⟩ := h.latched d hf
    simp [hrun] at hhalted

/-- DecodeError, taken after the fetch of an illegal byte, leaves a state that meets the invariant (R102). -/
theorem coreInv_raiseDecodeError {s : State} (h : CoreInv s) (hop : dispatch (s.mem.read s.pc) = none) :
    CoreInv (s.fetch.raiseDecodeError (s.mem.read s.pc) s.pc) where
  memCanonical := h.memCanonical
  latched d hd := by
    obtain rfl : (⟨s.mem.read s.pc, s.pc⟩ : DecodeError) = d := by simpa using hd
    simp [hop]
  haltedNormally hend := by simp [State.endedNormally] at hend

/-- The instruction at the pc of a RUNNING core leaves a state that meets the invariant: the latch stays none, and it halts
only by HALT, with the MAR and MDR of the HALT byte's fetch (R97). -/
theorem coreInv_afterExec {s : State} {o : Opcode} (h : CoreInv s) (hrun : s.run = .running)
    (hop : s.mem.read s.pc = o.byte) : CoreInv (s.fetch.afterExec (s.instrAt o)) where
  memCanonical := afterExec_mem_wf (s := s.fetch) h.memCanonical _
  latched d hd := by simp [h.fault_none_of_running hrun] at hd
  haltedNormally hend := by
    obtain ⟨hhalted, -⟩ := hend
    obtain rfl : o = .halt := by simpa [afterExec_run, hrun] using hhalted
    exact ⟨rfl, hop⟩

/-- Settles O52, by the three cases of a step. -/
theorem everyStepKeepsTheInvariant : Obligations.EveryStepKeepsTheInvariant := by
  unfold Obligations.EveryStepKeepsTheInvariant
  intro s t hinv hstep
  cases stepCase_of_step hstep with
  | halted _ ht => exact ht ▸ hinv
  | illegal _ hop ht => exact ht ▸ coreInv_raiseDecodeError hinv hop
  | handler hrun o hop ht => exact ht ▸ coreInv_afterExec hinv hrun hop

/-! ### The tick by the byte at the pc -/

/-- A step at the byte of an opcode leaves what the meaning of its instruction leaves. -/
theorem eq_afterExec_of_step {s t : State} (hrun : s.run = .running) (hstep : step s = .next t) (o : Opcode)
    (hop : s.mem.read s.pc = o.byte) : t = s.fetch.afterExec (s.instrAt o) := by
  simpa [hstep] using step_of_byte hrun hop

/-- A step at the byte of one of a list of opcodes leaves what the meaning of one of their instructions leaves. -/
theorem exists_eq_afterExec_of_step {s t : State} (hrun : s.run = .running) (hstep : step s = .next t) {os : List Opcode}
    (hmem : s.mem.read s.pc ∈ os.map Opcode.byte) :
    ∃ o ∈ os, t = s.fetch.afterExec (s.instrAt o) := by
  obtain ⟨o, ho, hop⟩ := List.mem_map.1 hmem
  exact ⟨o, ho, eq_afterExec_of_step hrun hstep o hop.symm⟩

/-- A step at an illegal byte leaves what DecodeError leaves. -/
theorem eq_raiseDecodeError_of_step {s t : State} (hrun : s.run = .running) (hstep : step s = .next t)
    (hop : dispatch (s.mem.read s.pc) = none) : t = s.fetch.raiseDecodeError (s.mem.read s.pc) s.pc := by
  simpa [hstep] using step_illegal hrun hop

/-! ### The pc (R21) -/

/-- The instructions of a list of opcodes of one width, neither HALT nor a jump, move the pc on by that width, modulo 256. -/
theorem pc_toNat_of_step_advancing {s t : State} (hrun : s.run = .running) (hstep : step s = .next t) {w : Nat}
    (os : List Opcode) (hos : ∀ o ∈ os, o ∉ [Opcode.halt, .jmp, .jeq] ∧ o.width = w)
    (hmem : s.mem.read s.pc ∈ os.map Opcode.byte) : t.pc.toNat = (s.pc.toNat + w) % 256 := by
  obtain ⟨o, ho, rfl⟩ := exists_eq_afterExec_of_step hrun hstep hmem
  obtain ⟨hadv, rfl⟩ := hos o ho
  rw [afterExec_pc_of_advancing _ (by simpa using hadv)]
  simp

/-- JEQ goes to its operand byte, or two further, by the flag (R96). -/
theorem pc_of_step_jeq {s t : State} (hrun : s.run = .running) (hstep : step s = .next t)
    (hop : s.mem.read s.pc = 0x13#8) :
    if s.eq then t.pc = s.mem.read (s.pc + 1#8) else t.pc.toNat = (s.pc.toNat + 2) % 256 := by
  obtain rfl := eq_afterExec_of_step hrun hstep .jeq hop
  have hpc : (s.fetch.afterExec (s.instrAt .jeq)).pc = if s.eq then s.mem.read (s.pc + 1#8) else s.pc + 2#8 := rfl
  cases heq : s.eq <;> simp [hpc, heq]

/-- Settles O10, by the step at each row's bytes. -/
theorem pcAfterEachTick : Obligations.PcAfterEachTick := by
  unfold Obligations.PcAfterEachTick
  intro s hrun
  obtain ⟨t, hstep, -⟩ := step_total s
  refine ⟨t, hstep, fun hop => ?halt, ?width1, ?width2, ?width3, fun hop => ?jmp, pc_of_step_jeq hrun hstep,
    fun hop => ?illegal⟩
  case halt => rw [eq_afterExec_of_step hrun hstep .halt hop]; rfl
  case width1 => exact pc_toNat_of_step_advancing hrun hstep [.init, .prn, .push, .pop] (by decide)
  case width2 => exact pc_toNat_of_step_advancing hrun hstep [.set, .save, .ld, .st, .cmp] (by decide)
  case width3 => exact pc_toNat_of_step_advancing hrun hstep [.mul, .add] (by decide)
  case jmp => rw [eq_afterExec_of_step hrun hstep .jmp hop]; rfl
  case illegal => rw [eq_raiseDecodeError_of_step hrun hstep hop]; rfl

/-! ### MAR and MDR (R24, R25) -/

/-- HALT, INIT and PRN keep MAR and MDR of the fetch. -/
theorem marMdr_of_step_fetch {s t : State} (hrun : s.run = .running) (hstep : step s = .next t)
    (hmem : s.mem.read s.pc ∈ [0x00#8, 0x01#8, 0x06#8]) : t.mar = s.pc ∧ t.mdr = s.mem.read s.pc := by
  obtain ⟨o, ho, rfl⟩ := exists_eq_afterExec_of_step (os := [.halt, .init, .prn]) hrun hstep hmem
  simp only [List.mem_cons, List.not_mem_nil, or_false] at ho
  obtain rfl | rfl | rfl := ho <;> exact ⟨rfl, rfl⟩

/-- SET, SAVE, CMP, JMP and JEQ keep MAR and MDR of their operand's `Load`. -/
theorem marMdr_of_step_operand1 {s t : State} (hrun : s.run = .running) (hstep : step s = .next t)
    (hmem : s.mem.read s.pc ∈ [0x02#8, 0x04#8, 0x16#8, 0x11#8, 0x13#8]) :
    t.mar.toNat = (s.pc.toNat + 1) % 256 ∧ t.mdr = s.mem.read (s.pc + 1#8) := by
  obtain ⟨o, ho, rfl⟩ := exists_eq_afterExec_of_step (os := [.set, .save, .cmp, .jmp, .jeq]) hrun hstep hmem
  simp only [List.mem_cons, List.not_mem_nil, or_false] at ho
  obtain rfl | rfl | rfl | rfl | rfl := ho <;> exact ⟨BitVec.toNat_add s.pc 1#8, rfl⟩

/-- MUL and ADD keep MAR and MDR of their second operand's `Load`. -/
theorem marMdr_of_step_operands2 {s t : State} (hrun : s.run = .running) (hstep : step s = .next t)
    (hmem : s.mem.read s.pc ∈ [0x05#8, 0x0C#8]) :
    t.mar.toNat = (s.pc.toNat + 2) % 256 ∧ t.mdr = s.mem.read (s.pc + 2#8) := by
  obtain ⟨o, ho, rfl⟩ := exists_eq_afterExec_of_step (os := [.mul, .add]) hrun hstep hmem
  simp only [List.mem_cons, List.not_mem_nil, or_false] at ho
  obtain rfl | rfl := ho <;> exact ⟨BitVec.toNat_add s.pc 2#8, rfl⟩

/-- PUSH leaves in MAR the decremented SP, and in MDR the byte pushed: with `cur = 255` that SP itself (R92, R12). -/
theorem marMdr_of_step_push {s t : State} (hrun : s.run = .running) (hstep : step s = .next t)
    (hop : s.mem.read s.pc = 0x0A#8) : t.mar.toNat = (s.sp.toNat + 255) % 256 ∧
      t.mdr = (if s.cur = 0xFF#8 then s.sp - 1#8 else s.getReg s.cur) := by
  obtain rfl := eq_afterExec_of_step hrun hstep .push hop
  refine ⟨?_, by simp [State.instrAt, Config.spIndex]⟩
  have hmar : (s.fetch.afterExec (s.instrAt .push)).mar = s.sp - 1#8 := by simp [State.instrAt]
  rw [hmar, BitVec.toNat_sub, Nat.add_comm]
  rfl

/-- Settles O12, by the step at each row's bytes. -/
theorem marAndMdrAfterEachTick : Obligations.MarAndMdrAfterEachTick := by
  unfold Obligations.MarAndMdrAfterEachTick
  intro s hrun
  obtain ⟨t, hstep, -⟩ := step_total s
  refine ⟨t, hstep, marMdr_of_step_fetch hrun hstep, marMdr_of_step_operand1 hrun hstep,
    marMdr_of_step_operands2 hrun hstep, fun hop => ?ld, fun hop => ?st, marMdr_of_step_push hrun hstep, fun hop => ?pop,
    fun hop => ?illegal⟩
  case ld => rw [eq_afterExec_of_step hrun hstep .ld hop]; exact ⟨rfl, rfl⟩
  case st => rw [eq_afterExec_of_step hrun hstep .st hop]; exact ⟨rfl, rfl⟩
  case pop => rw [eq_afterExec_of_step hrun hstep .pop hop]; exact ⟨rfl, rfl⟩
  case illegal => rw [eq_raiseDecodeError_of_step hrun hstep hop]; exact ⟨rfl, rfl⟩

/-- Settles O42: the fetch overwrites both before anything reads them (R67). -/
theorem marAndMdrFlowNowhere : Obligations.MarAndMdrFlowNowhere := by
  unfold Obligations.MarAndMdrFlowNowhere
  intro s a d hrun
  have hrun' : ({ s with mar := a, mdr := d } : State).run = .running := hrun
  rw [step_running hrun, step_running hrun']
  rfl

/-! ### The flag (R28) -/

/-- A tick that is not a CMP leaves the flag. -/
theorem flag_of_step {s t : State} (hstep : step s = .next t) (hop : s.run = .halted ∨ s.mem.read s.pc ≠ 0x16#8) :
    t.eq = s.eq := by
  cases stepCase_of_step hstep with
  | halted _ ht => rw [ht]
  | illegal _ _ ht => rw [ht]; rfl
  | handler hrun o ho ht =>
    rw [ht]
    cases o with
    | cmp => simp [hrun, ho, Opcode.byte] at hop
    | _ => rfl

/-- A CMP tick sets the flag exactly when `x[cur]` and the operand register are equal (R88). -/
theorem flag_of_step_cmp {s t : State} (hrun : s.run = .running) (hstep : step s = .next t)
    (hop : s.mem.read s.pc = 0x16#8) :
    t.eq = true ↔ s.getReg s.cur = s.getReg (s.mem.read (s.pc + 1#8)) := by
  obtain rfl := eq_afterExec_of_step hrun hstep .cmp hop
  have heq : (s.fetch.afterExec (s.instrAt .cmp)).eq =
    equalFlag (s.getReg s.cur) (s.getReg (s.mem.read (s.pc + 1#8))) := rfl
  simp [heq, equalFlag_eq]

/-- A tick that is not a JEQ does not read the flag: from a state that differs in the flag alone it does the same, and the
difference stays unless it is a CMP. -/
theorem step_setEq {s t : State} (hstep : step s = .next t) (b : Bool)
    (hop : s.run = .halted ∨ s.mem.read s.pc ≠ 0x13#8) :
    step (s.setEq b) = .next (t.setEq (if s.run = .running ∧ s.mem.read s.pc = 0x16#8 then t.eq else b)) := by
  cases stepCase_of_step hstep with
  | halted hrun ht =>
    rw [step_halted (s := s.setEq b) hrun, ht]
    simp [hrun]
  | illegal hrun ho ht =>
    rw [step_illegal (s := s.setEq b) hrun ho, ht, if_neg fun h => ne_byte_of_illegal ho .cmp h.2]
    rfl
  | handler hrun o ho ht =>
    have hjeq : o ≠ .jeq := by
      rintro rfl
      simp [hrun, ho, Opcode.byte] at hop
    have hcmp : s.mem.read s.pc = 0x16#8 ↔ o = .cmp := ho ▸ Opcode.byte_inj (p := .cmp)
    rw [step_of_byte (s := s.setEq b) hrun ho, ht]
    have hexec := afterExec_setEq s.fetch b (i := s.instrAt o) (by simpa using hjeq)
    simp only [hrun, hcmp, true_and, instrAt_opcode] at hexec ⊢
    exact congrArg Host.Outcome.next hexec

/-- Settles O40. -/
theorem onlyCmpWritesAndOnlyJeqReadsTheFlag : Obligations.OnlyCmpWritesAndOnlyJeqReadsTheFlag := by
  unfold Obligations.OnlyCmpWritesAndOnlyJeqReadsTheFlag
  refine ⟨fun s => ?_, rfl, fun _ => rfl⟩
  obtain ⟨t, hstep, -⟩ := step_total s
  exact ⟨t, hstep, flag_of_step hstep, fun hrun => flag_of_step_cmp hrun hstep, step_setEq hstep⟩

/-! ### The selector and the general registers (R16, R18, R26) -/

/-- Settles O41, by the three cases of a step. -/
theorem onlyInitAndSetWriteTheSelector : Obligations.OnlyInitAndSetWriteTheSelector := by
  unfold Obligations.OnlyInitAndSetWriteTheSelector
  intro s t hstep hcur
  cases stepCase_of_step hstep with
  | halted _ ht => exact absurd (congrArg State.cur ht) hcur
  | illegal _ _ ht => exact absurd (congrArg State.cur ht) hcur
  | handler hrun o hop ht =>
    subst ht
    cases o with
    | init => exact ⟨hrun, .inl ⟨hop, rfl⟩⟩
    | set => exact ⟨hrun, .inr ⟨hop, rfl⟩⟩
    | _ => exact absurd rfl hcur

/-- Settles O43: a register that changes is one of those its instruction writes. -/
theorem registersWrittenByEachTick : Obligations.RegistersWrittenByEachTick := by
  unfold Obligations.RegistersWrittenByEachTick
  intro s t r hstep hreg
  cases stepCase_of_step hstep with
  | halted _ ht => exact absurd (congrArg (State.getReg · r) ht) hreg
  | illegal _ _ ht => exact absurd (congrArg (State.getReg · r) ht) hreg
  | handler hrun o hop ht =>
    have hwritten : r ∈ s.fetch.regsWritten o := by
      by_contra hnot
      exact hreg (ht ▸ afterExec_regsKept s.fetch (s.instrAt o) r (by simpa using hnot))
    refine ⟨hrun, ?_⟩
    cases o with
    | save | mul | add | ld => exact .inl ⟨List.mem_singleton.1 hwritten, by simp [hop, Opcode.byte]⟩
    | push => exact .inr ⟨List.mem_singleton.1 hwritten, by simp [hop, Opcode.byte]⟩
    | pop =>
      obtain hcur | hsp := List.mem_pair.1 hwritten
      · exact .inl ⟨hcur, by simp [hop, Opcode.byte]⟩
      · exact .inr ⟨hsp, by simp [hop, Opcode.byte]⟩
    | _ => exact absurd hwritten List.not_mem_nil

/-- Settles O32, by what each meaning leaves in register 255. -/
theorem registerTwoFiftyFiveIsTheStackPointer : Obligations.RegisterTwoFiftyFiveIsTheStackPointer := by
  unfold Obligations.RegisterTwoFiftyFiveIsTheStackPointer
  intro s t
  refine ⟨fun hcur => ⟨fun imm h => ?save, fun r1 r2 h => ?mul, fun r1 r2 h => ?add, fun a h => ?ld, fun h => ?pop⟩,
    fun h => ?push, fun hcur h => ?popElsewhere⟩
  all_goals rw [← afterExec_of_exec h]
  case push => simp [Config.spIndex]
  case popElsewhere => simp [Config.spIndex, hcur.symm]
  all_goals simp [Config.spIndex, hcur]

/-! ### The run state and the latch (R29, R30) -/

/-- A tick leaves HALTED exactly a core that was HALTED, or stood at a HALT or at an illegal byte. -/
theorem run_halted_iff_of_step {s t : State} (hstep : step s = .next t) : t.run = .halted ↔
    s.run = .halted ∨ s.mem.read s.pc = 0x00#8 ∨ dispatch (s.mem.read s.pc) = none := by
  cases stepCase_of_step hstep with
  | halted hrun ht => simp [ht, hrun]
  | illegal _ hop ht => simp [ht, hop]
  | handler hrun o hop ht =>
    have hhalt : o.byte = 0x00#8 ↔ o = .halt := Opcode.byte_inj (p := .halt)
    simp [ht, hop, hrun, hhalt, afterExec_run]

/-- A host event but `Reset` changes nothing but memory on a HALTED core (R65, R115). -/
theorem transact_halted {s : State} (hrun : s.run = .halted) {e : HostEvent} (he : e ≠ .reset) :
    ∃ m : Memory, transact e s = .next { s with mem := m } := by
  cases e with
  | reset => exact absurd rfl he
  | hostWrite a v => exact ⟨s.mem.write a v, rfl⟩
  | tick => exact ⟨s.mem, step_halted hrun⟩

/-- Any number of host events without `Reset` changes nothing but memory on a HALTED core. -/
theorem transactAll_halted {s : State} (hrun : s.run = .halted) {es : List HostEvent} (hes : .reset ∉ es) :
    ∃ m : Memory, transactAll es s = .next { s with mem := m } := by
  induction es generalizing s with
  | nil => exact ⟨s.mem, rfl⟩
  | cons e es ih =>
    obtain ⟨he, hes⟩ : .reset ≠ e ∧ .reset ∉ es := by simpa using hes
    obtain ⟨m, hm⟩ := transact_halted hrun he.symm
    simpa only [transactAll, hm] using ih (s := { s with mem := m }) hrun hes

/-- Settles O45. -/
theorem runChangesByHaltDecodeErrorAndReset : Obligations.RunChangesByHaltDecodeErrorAndReset := by
  unfold Obligations.RunChangesByHaltDecodeErrorAndReset
  refine ⟨fun s => ?tick, fun s t e hrun he ht => ?event, fun _ => rfl⟩
  case tick =>
    obtain ⟨t, hstep, -⟩ := step_total s
    exact ⟨t, hstep, run_halted_iff_of_step hstep⟩
  case event =>
    obtain ⟨m, hm⟩ := transact_halted hrun he
    obtain rfl : { s with mem := m } = t := by simpa [hm] using ht
    exact hrun

/-- Settles O54: a set latch has halted the core, and nothing but `Reset` changes more than the memory of a HALTED core. -/
theorem theLatchIsClearedOnlyByReset : Obligations.TheLatchIsClearedOnlyByReset := by
  unfold Obligations.TheLatchIsClearedOnlyByReset
  intro s d hinv hfault es hes
  obtain ⟨hrun, -⟩ := hinv.latched d hfault
  obtain ⟨m, hm⟩ := transactAll_halted hrun hes
  exact ⟨_, hm, hfault, ⟨hrun, hfault⟩, rfl, fun _ _ => rfl, rfl⟩

/-! ### Reset (R31) -/

/-- Settles O46. -/
theorem valuesAfterReset : Obligations.ValuesAfterReset := by
  unfold Obligations.ValuesAfterReset
  exact ⟨State.reset_getReg, State.reset_getReg _, rfl, rfl, rfl, rfl, rfl, rfl, rfl, rfl, Memory.read_nil⟩

end Sys2Proof.Machine

/-! PROOFS: memory (spec/20_memory.md). -/

namespace Sys2Proof.Machine

/-! ### Memory as data (R33, R34) -/

theorem Memory.lookup_cons (d : Host.Cell) (rest : Memory) (a : Nat) :
    Memory.lookup (d :: rest) a = if d.1 = a then d.2 else Memory.lookup rest a := rfl

/-- A cell listed in rising order is the one its address looks up. -/
theorem Memory.lookup_of_mem {m : Memory} (h : m.Pairwise fun c d => c.1 < d.1) {c : Host.Cell} (hc : c ∈ m) :
    m.lookup c.1 = c.2 := by
  induction m with
  | nil => cases hc
  | cons d rest ih =>
    obtain ⟨hlt, hrest⟩ := List.pairwise_cons.1 h
    obtain rfl | hc := List.mem_cons.1 hc
    · simp [Memory.lookup_cons]
    · simpa [Memory.lookup_cons, (hlt c hc).ne] using ih hrest hc

/-- A byte looked up that is not the unlisted one is listed. -/
theorem Memory.mem_of_lookup_ne {m : Memory} {a : Nat} (h : m.lookup a ≠ Config.unlistedByte) :
    (a, m.lookup a) ∈ m := by
  induction m with
  | nil => exact absurd rfl h
  | cons d rest ih =>
    rw [Memory.lookup_cons] at h ⊢
    split_ifs at h ⊢ with hd
    · exact hd ▸ List.mem_cons_self
    · exact List.mem_cons_of_mem d (ih h)

/-- The cells of a canonical memory are listed by every memory that reads as it does. -/
theorem Memory.wf.subset_of_read {m n : Memory} (hm : m.wf) (hread : ∀ a : Addr, m.read a = n.read a) : m ⊆ n := by
  intro c hc
  obtain ⟨hrising, hcells⟩ := hm
  obtain ⟨(hlt : c.1 < 256), hne⟩ := hcells c hc
  have hlookup : n.lookup c.1 = c.2 := by
    rw [← Memory.lookup_of_mem hrising hc]
    simpa [Memory.read, Nat.mod_eq_of_lt hlt] using (hread (BitVec.ofNat 8 c.1)).symm
  have hmem := Memory.mem_of_lookup_ne (hlookup ▸ hne)
  rwa [hlookup] at hmem

/-- Settles O18: each memory lists the other's cells, and both list them in rising order. -/
theorem canonicalMemoriesThatReadAlikeAreEqual : Obligations.CanonicalMemoriesThatReadAlikeAreEqual := by
  unfold Obligations.CanonicalMemoriesThatReadAlikeAreEqual
  intro m n hm hn hread
  have : Std.Irrefl fun c d : Host.Cell => c.1 < d.1 := ⟨fun c => lt_irrefl c.1⟩
  have : Std.Antisymm fun c d : Host.Cell => c.1 < d.1 := ⟨fun _ _ hcd hdc => absurd hcd hdc.asymm⟩
  exact List.Subset.antisymm_of_pairwise hm.1 hn.1 (hm.subset_of_read hread) (hn.subset_of_read fun a => (hread a).symm)

/-- Settles O17, by the read after a write. -/
theorem memWriteSetsOneCell : Obligations.MemWriteSetsOneCell := by
  unfold Obligations.MemWriteSetsOneCell
  intro m a b v w
  refine ⟨by simp, fun hne => ?other, by simp, fun hne => ?second⟩
  case other => simp [hne]
  case second => simp [hne.symm]

/-! ### Memory through MAR and MDR (R38, R39) -/

/-- A `Store` keeps every byte but the one it stores to. -/
theorem store_memKept (s : State) (a : Addr) (v : Byte) : MemKeptBut [a] s (s.store a v) := by
  intro b hb
  have hne : b ≠ a := by simpa using hb
  simp [hne]

/-- Settles O19. -/
theorem loadAndStoreGoThroughMarAndMdr : Obligations.LoadAndStoreGoThroughMarAndMdr := by
  unfold Obligations.LoadAndStoreGoThroughMarAndMdr
  intro s a v
  refine ⟨rfl, rfl, fun _ _ => rfl, rfl, rfl, by simp, store_memKept s a v, fun t ht => ?frame⟩
  case frame =>
    obtain rfl | rfl := List.mem_pair.1 ht <;> exact ⟨fun _ _ => rfl, rfl, rfl, rfl, rfl, rfl, rfl⟩

/-! ### What the meanings store (R35) -/

/-- The addresses that each instruction stores to. -/
def State.addrsStored (s : State) : Instr → List Addr
  | .st a => [a]
  | .push => [s.sp - 1#8]
  | .halt | .init | .set _ | .save _ | .mul _ _ | .prn | .ld _ | .pop | .add _ _ | .jmp _ | .jeq _ | .cmp _ => []

@[simp] theorem afterExec_st (s : State) (a : Addr) :
    s.afterExec (.st a) = ((s.operand1 a).store a (s.getReg s.cur)).advance 2 := afterExec_of_exec (exec_st a s)

/-- Every other byte of memory is kept (R35). -/
theorem afterExec_memKept (s : State) (i : Instr) : MemKeptBut (s.addrsStored i) s (s.afterExec i) := by
  cases i with
  | st a => exact afterExec_st s a ▸ store_memKept (s.operand1 a) a _
  | push =>
    intro a ha
    have hne : a ≠ s.getReg Config.spIndex - 1#8 := by simpa [State.addrsStored] using ha
    simp [hne]
  | _ => exact fun _ _ => rfl

/-- Settles O44: a byte that changes is one that its instruction stores to. -/
theorem onlyStAndPushWriteMemory : Obligations.OnlyStAndPushWriteMemory := by
  unfold Obligations.OnlyStAndPushWriteMemory
  intro s t a hstep hread
  cases stepCase_of_step hstep with
  | halted _ ht => exact absurd (congrArg (·.mem.read a) ht) hread
  | illegal _ _ ht => exact absurd (congrArg (·.mem.read a) ht) hread
  | handler hrun o hop ht =>
    have hstored : a ∈ s.fetch.addrsStored (s.instrAt o) := by
      by_contra hnot
      exact hread (ht ▸ afterExec_memKept s.fetch (s.instrAt o) a hnot)
    refine ⟨hrun, ?_⟩
    cases o with
    | st => exact .inl ⟨hop, List.mem_singleton.1 hstored⟩
    | push => exact .inr ⟨hop, List.mem_singleton.1 hstored⟩
    | _ => exact absurd hstored List.not_mem_nil

/-! ### The next fetch sees a store (R49) -/

/-- Settles O29: the step after an ST into the byte after itself is the one at the byte stored. -/
theorem aStoredByteIsTheNextOneFetched : Obligations.AStoredByteIsTheNextOneFetched := by
  unfold Obligations.AStoredByteIsTheNextOneFetched
  intro s hrun hop hoperand
  obtain ⟨t, hstep, -⟩ := step_total s
  obtain ⟨u, hnext, -⟩ := step_total t
  have ht := eq_afterExec_of_step hrun hstep .st hop
  simp only [State.instrAt, hoperand, afterExec_st] at ht
  have hpc : t.pc = s.pc + 2#8 := by simp [ht]
  have hbyte : t.mem.read t.pc = s.getReg s.cur := by simp [ht]
  have hrun' : t.run = .running := by simp [ht, hrun]
  have hfault : t.fault = s.fault := by simp [ht]
  refine ⟨t, u, hstep, hnext, hpc, hbyte, fun hhalt => ?halt, fun hillegal => ?illegal⟩
  case halt =>
    rw [eq_afterExec_of_step hrun' hnext .halt (hbyte.trans hhalt)]
    exact ⟨rfl, hfault, hpc⟩
  case illegal =>
    rw [eq_raiseDecodeError_of_step hrun' hnext (hbyte ▸ hillegal), hbyte, hpc]
    exact ⟨rfl, rfl, hpc⟩

/-! ### Addresses wrap (R40, R42) -/

/-- Settles O13: at pc 0xFE the operand bytes are at 0xFF and 0x00. -/
theorem addAtTheTopOfMemoryWraps : Obligations.AddAtTheTopOfMemoryWraps := by
  unfold Obligations.AddAtTheTopOfMemoryWraps
  intro s hrun hpc hop
  rw [← hpc] at hop
  refine ⟨_, step_of_byte (o := .add) hrun hop, ?_⟩
  simp [State.instrAt, hpc]

end Sys2Proof.Machine

/-! PROOFS: the encoding (spec/30_encoding.md). -/

namespace Sys2Proof

/-! ### Decoding and encoding (R51 to R58) -/

/-- The dispatcher answers with an opcode exactly at that opcode's byte. -/
theorem dispatch_eq_some_iff {op : Byte} {o : Opcode} : dispatch op = some o ↔ op = o.byte :=
  ⟨byte_of_dispatch, fun h => h ▸ dispatch_byte o⟩

/-- Each opcode's operands are read where an instruction's operands come first, whatever follows. -/
theorem readOperands_operands (i : Instr) (rest : List Byte) :
    readOperands i.opcode (i.operands ++ rest) = some (i, rest) := by cases i <;> rfl

/-- Reading operands takes the operand bytes of the instruction it answers and leaves the rest: in each branch of
`readOperands`, the bytes of the pattern are the operands. -/
theorem operands_of_readOperands {o : Opcode} {bs rest : List Byte} {i : Instr}
    (h : readOperands o bs = some (i, rest)) : i.opcode = o ∧ bs = i.operands ++ rest := by
  unfold readOperands at h
  split at h <;> cases h <;> exact ⟨rfl, rfl⟩

theorem readOperands_eq_some_iff {o : Opcode} {bs rest : List Byte} {i : Instr} :
    readOperands o bs = some (i, rest) ↔ i.opcode = o ∧ bs = i.operands ++ rest := by
  refine ⟨operands_of_readOperands, ?_⟩
  rintro ⟨rfl, rfl⟩
  exact readOperands_operands i rest

/-- The decoder answers an instruction exactly when its first byte has a handler and the handler's operands are there. -/
theorem decode_cons_eq_ok_iff {op : Byte} {bs : List Byte} {r : Instr × List Byte} :
    decode (op :: bs) = .ok r ↔ ∃ o, dispatch op = some o ∧ readOperands o bs = some r := by
  cases hop : dispatch op with
  | none => simp [decode, hop]
  | some o => cases hread : readOperands o bs <;> simp [decode, hop, hread]

/-- Bytes decode to an instruction exactly when its encoding begins them. -/
theorem decode_eq_ok_iff {bs rest : List Byte} {i : Instr} :
    decode bs = .ok (i, rest) ↔ bs = encode i ++ rest := by
  cases bs with
  | nil => simp [decode, encode]
  | cons op bs =>
    simp [decode_cons_eq_ok_iff, dispatch_eq_some_iff, readOperands_eq_some_iff, encode]

/-- Settles O1. -/
theorem decodingAgreesWithEncoding : Obligations.DecodingAgreesWithEncoding := by
  unfold Obligations.DecodingAgreesWithEncoding
  exact fun _ _ _ => ⟨rfl, decode_eq_ok_iff⟩

/-- An instruction's encoding decodes to it. -/
theorem decode_encode (i : Instr) : decode (encode i) = .ok (i, []) :=
  decode_eq_ok_iff.2 (List.append_nil _).symm

/-- Settles O2: each word is the encoding of its instruction. -/
theorem opcodeMapWordsDecode : Obligations.OpcodeMapWordsDecode := by
  unfold Obligations.OpcodeMapWordsDecode
  exact ⟨decode_encode .halt, decode_encode .init, decode_encode (.set 0x05#8), decode_encode (.save 0x2A#8),
    decode_encode (.mul 0x00#8 0x01#8), decode_encode .prn, decode_encode (.ld 0x80#8), decode_encode (.st 0x81#8),
    decode_encode .push, decode_encode .pop, decode_encode (.add 0x03#8 0x04#8), decode_encode (.jmp 0x0C#8),
    decode_encode (.jeq 0x15#8), decode_encode (.cmp 0xFF#8)⟩

/-! ### Illegal opcodes (R59) -/

/-- The bytes without a handler are those of no row of R58. -/
theorem dispatch_eq_none_iff {op : Byte} : dispatch op = none ↔ op ∉ opcodeTable.map (·.byte) := by
  simp [dispatch, List.find?_eq_none]

/-- The bytes of no row of R58, listed as R59 lists them. -/
theorem dispatch_eq_none_iff_listed (op : Byte) : dispatch op = none ↔
    op ∈ [0x03#8, 0x07#8, 0x0D#8, 0x0E#8, 0x0F#8, 0x10#8, 0x12#8, 0x14#8, 0x15#8] ∨
      0x17 ≤ op.toNat ∧ op.toNat ≤ 0xFF := by
  have hlt := op.isLt
  simp only [dispatch_eq_none_iff, opcodeTable, List.map_cons, List.map_nil, List.mem_cons, List.not_mem_nil, or_false,
    ← BitVec.toNat_inj, BitVec.toNat_ofNat]
  omega

/-- R59 lists 9 bytes below 0x17 and the 233 from there up. -/
theorem illegal_bytes_length :
    ((List.range 256).filter (fun n => (dispatch (BitVec.ofNat 8 n)).isNone)).length = 242 := by
  have hsplit : List.range 256 = List.range 0x17 ++ (List.range 233).map (0x17 + ·) :=
    List.range_add (n := 0x17) (m := 233)
  have hbelow : ((List.range 0x17).filter (fun n => (dispatch (BitVec.ofNat 8 n)).isNone)).length = 9 := by decide
  have habove : ∀ n ∈ (List.range 233).map (0x17 + ·), (dispatch (BitVec.ofNat 8 n)).isNone := by
    intro n hn
    obtain ⟨k, hk, rfl⟩ := List.mem_map.1 hn
    have hlt : k < 233 := List.mem_range.1 hk
    rw [Option.isNone_iff_eq_none, dispatch_eq_none_iff_listed, BitVec.toNat_ofNat]
    omega
  rw [hsplit, List.filter_append, List.filter_eq_self.2 habove, List.length_append, hbelow, List.length_map,
    List.length_range]

/-- The decoder rejects a byte without a handler by name, whatever follows it. -/
theorem decode_illegal {op : Byte} (hop : dispatch op = none) (rest : List Byte) :
    decode (op :: rest) = .error (.illegalOpcode op) := by
  simp [decode, hop]

namespace Machine

/-- PRN reports one `Out`; no other meaning reports anything (R99, R100). -/
theorem afterExec_events (s : State) (i : Instr) :
    (s.afterExec i).events = s.events ++ if i.opcode = .prn then [.out (s.getReg s.cur)] else [] := by
  cases i with
  | prn => rfl
  | _ => exact (List.append_nil _).symm

/-- No meaning reports an `Err`: that is DecodeError's (R102, R103). -/
theorem afterExec_events_ne_err (s : State) (i : Instr) (op : Byte) (p : Addr) :
    (s.afterExec i).events ≠ s.events ++ [.err op p] := by
  rw [afterExec_events]
  split_ifs <;> simp

/-- Settles O3, by the step at a byte without a handler and at the byte of an opcode. -/
theorem illegalBytesHaveNoHandler : Obligations.IllegalBytesHaveNoHandler := by
  unfold Obligations.IllegalBytesHaveNoHandler
  refine ⟨dispatch_eq_none_iff_listed, ?count, fun _ rest hop => decode_illegal hop rest, fun s hrun hop => ?illegal,
    fun s hrun hop => ?handler⟩
  case count => exact illegal_bytes_length
  case illegal => exact ⟨_, step_illegal hrun hop, rfl, rfl⟩
  case handler =>
    obtain ⟨o, ho⟩ := (illegal_or_byte (s.mem.read s.pc)).resolve_left hop
    exact ⟨_, step_of_byte hrun ho, afterExec_fault s.fetch _, afterExec_events_ne_err s.fetch _⟩

end Machine

end Sys2Proof

/-! PROOFS: the sequencer (spec/40_sequencer.md). -/

namespace Sys2Proof.Machine

/-! ### Fetch, decode and execute (R66 to R69) -/

/-- While RUNNING, the step is the meaning of whatever instruction the decoder reads from the bytes of the fetch. -/
theorem step_of_decode {s : State} {i : Instr} {rest : List Byte} (hrun : s.run = .running)
    (hdec : decode s.instrBytes = .ok (i, rest)) : step s = exec i s.fetch := by
  simp only [step_running hrun, runningTick, hdec]

/-- Settles O4. -/
theorem stepRunsTheDecodedInstruction : Obligations.StepRunsTheDecodedInstruction := by
  unfold Obligations.StepRunsTheDecodedInstruction
  exact fun _ _ _ hrun hdec => step_of_decode hrun hdec

/-- Settles O5: the byte fetched after a write at the pc is a read after a write. -/
theorem fetchWritesMarAndMdrOnly : Obligations.FetchWritesMarAndMdrOnly := by
  unfold Obligations.FetchWritesMarAndMdrOnly
  intro s
  refine ⟨rfl, rfl, ⟨s.pc, s.mem.read s.pc, rfl⟩, fun v => ⟨?store, ?hostWrite⟩⟩
  case store => simp
  case hostWrite => simp

/-! ### Ticks while HALTED (R65) -/

/-- Settles O6, by induction on the number of ticks. -/
theorem haltedTicksChangeNothing : Obligations.HaltedTicksChangeNothing := by
  unfold Obligations.HaltedTicksChangeNothing
  intro s hrun
  refine ⟨step_halted hrun, fun k => ?_⟩
  induction k with
  | zero => rfl
  | succ k ih =>
    simpa only [ticks, List.replicate_succ, transactAll, transact, step_halted hrun] using ih

/-! ### The pseudocode's tick (R66, R83 to R102) -/

/-- The pseudocode compares bytes as CMP's meaning compares them (R80). -/
theorem beq_eq_equalFlag (a b : Byte) : (a == b) = equalFlag a b := by
  rw [equalFlag_eq, beq_eq_decide]

/-- At the byte of an opcode the pseudocode does what the meaning of the instruction at the pc does: its operand `Load`s
read the bytes that the decoder hands to the meaning. -/
theorem microExecute_byte (s : State) (o : Opcode) : microExecute o.byte s = s.afterExec (s.instrAt o) := by
  cases o with
  | cmp =>
    exact congrArg (fun flag => ((s.operand1 (s.mem.read (s.pc + 1#8))).setEq flag).advance 2) (beq_eq_equalFlag _ _)
  | _ => rfl

/-- At a byte without a handler the pseudocode takes DecodeError (R102). -/
theorem microExecute_illegal {op : Byte} (hop : dispatch op = none) (s : State) :
    microExecute op s = s.raiseDecodeError op s.pc := by
  simp only [dispatch_eq_none_iff, opcodeTable, List.map_cons, List.map_nil, List.mem_cons, not_or] at hop
  simp only [microExecute, hop, if_false]
  rfl

theorem microTick_halted {s : State} (hrun : s.run = .halted) : microTick s = s := by
  simp only [microTick, hrun]

theorem microTick_running {s : State} (hrun : s.run = .running) :
    microTick s = microExecute (s.mem.read s.pc) s.fetch := by
  simp only [microTick, hrun, State.load_mdr, State.fetch]

/-- Settles O9, by the three cases of a step. -/
theorem stepIsTheMicroOperationTick : Obligations.StepIsTheMicroOperationTick := by
  unfold Obligations.StepIsTheMicroOperationTick
  intro s
  obtain ⟨t, hstep, hcase⟩ := step_total s
  suffices ht : t = microTick s from ht ▸ hstep
  cases hcase with
  | halted hrun ht => rw [ht, microTick_halted hrun]
  | illegal hrun hop ht => rw [ht, microTick_running hrun, microExecute_illegal hop, State.fetch_pc]
  | handler hrun o hop ht =>
    rw [ht, microTick_running hrun, hop, microExecute_byte]
    rfl

/-! ### The advance (R70) -/

/-- Settles O11. -/
theorem handlersAdvanceByTheWidth : Obligations.HandlersAdvanceByTheWidth := by
  unfold Obligations.HandlersAdvanceByTheWidth
  intro i s
  refine ⟨s.afterExec i, exec_eq_next i s, fun hadv => ⟨?advance, (operands_length i).symm⟩, fun hi => ?halt, ?jmp, ?jeq⟩
  case advance => simp [afterExec_pc_of_advancing s hadv]
  case halt =>
    cases i with
    | halt => rfl
    | _ => cases hi
  case jmp => rintro a rfl; rfl
  case jeq =>
    rintro a rfl
    have hpc : (s.afterExec (.jeq a)).pc = if s.eq then a else s.pc + 2#8 := rfl
    cases heq : s.eq with
    | false => exact .inr ⟨by simp [hpc, heq, Instr.opcode, Opcode.width], rfl⟩
    | true => exact .inl ⟨by simp [hpc, heq], rfl⟩

/-! ### A word placed at the pc (R66, R115) -/

/-- Placing bytes at the pc changes memory and the run state alone. -/
theorem placeInstruction_eq (s : State) (bytes : List Byte) :
    s.placeInstruction bytes = { s with mem := (s.placeInstruction bytes).mem, run := .running } := by
  rw [State.placeInstruction, hostWriteBytes_eq]

/-- Three bytes placed at the pc are the bytes of the next fetch: the addresses `pc`, `pc + 1` and `pc + 2` modulo 256 are
three cells (R40). -/
theorem instrBytes_placeInstruction (s : State) (a b c : Byte) :
    (s.placeInstruction [a, b, c]).instrBytes = [a, b, c] := by
  simp [State.placeInstruction, State.hostWriteBytes, State.instrBytes, add_assoc]

/-- The decoder reads an instruction from an opcode-table word when it reads it from the word's bytes. -/
theorem decode_of_decodeTableWord {nbits w : Nat} {i : Instr} (h : decodeTableWord nbits w = some i) :
    ∃ rest, decode (tableWordBytes nbits w) = .ok (i, rest) := by
  unfold decodeTableWord at h
  split at h
  case h_1 j rest hdec =>
    obtain rfl : j = i := by simpa using h
    exact ⟨rest, hdec⟩
  case h_2 => cases h

/-- Settles O50: the next fetch reads the bytes placed. -/
theorem placedWordIsTheOneExecuted : Obligations.PlacedWordIsTheOneExecuted := by
  unfold Obligations.PlacedWordIsTheOneExecuted
  intro s nbits w i hword
  obtain ⟨rest, hdec⟩ := decode_of_decodeTableWord hword
  have hbytes : (s.withFetchWord nbits w).instrBytes = tableWordBytes nbits w := instrBytes_placeInstruction s _ _ _
  refine ⟨step_of_decode rfl (hbytes ▸ hdec), ?pc, fun r _ => ?regs⟩
  case pc => rw [State.withFetchWord, placeInstruction_eq]
  case regs => rw [State.withFetchWord, placeInstruction_eq]; rfl

end Sys2Proof.Machine

/-! PROOFS: the ALU (spec/41_alu.md). -/

namespace Sys2Proof.Machine

/-! ### ADD and MUL (R76, R77) -/

/-- Settles O14: byte addition and multiplication are those modulo 256, and the instruction's last register write is to
`x[cur]`. -/
theorem aluAddAndMulWrapModulo256 : Obligations.AluAddAndMulWrapModulo256 := by
  unfold Obligations.AluAddAndMulWrapModulo256
  intro s a b
  refine ⟨BitVec.toNat_add _ _, BitVec.toNat_mul _ _, ⟨_, exec_add a b s, ?add⟩, ⟨_, exec_mul a b s, ?mul⟩⟩
  case add => simp [State.aluAdd]
  case mul => simp [State.aluMul]

/-! ### INC and DEC (R78, R79) -/

/-- A read of a general or special register after a write to one. -/
@[simp] theorem State.setTarget_getTarget (s : State) (g : RegOrSpecial) (v : Byte) (u : RegOrSpecial) :
    (s.setTarget g v).getTarget u = if u = g then v else s.getTarget u := by
  cases g with
  | general r =>
    cases u with
    | general q => simp [State.setTarget, State.getTarget]
    | _ => rfl
  | _ => cases u <;> rfl

/-- A write to a general or special register writes no other part of the state. -/
theorem State.setTarget_frame (s : State) (g : RegOrSpecial) (v : Byte) :
    (s.setTarget g v).mem = s.mem ∧ (s.setTarget g v).cur = s.cur ∧ (s.setTarget g v).eq = s.eq ∧
      (s.setTarget g v).run = s.run ∧ (s.setTarget g v).fault = s.fault ∧ (s.setTarget g v).events = s.events := by
  cases g <;> exact ⟨rfl, rfl, rfl, rfl, rfl, rfl⟩

/-- Settles O15: INC and DEC are writes to their target, and POP and PUSH leave the register file of their own INC and DEC
of SP (R73, R93). -/
theorem aluIncAndDecWorkInPlace : Obligations.AluIncAndDecWorkInPlace := by
  unfold Obligations.AluIncAndDecWorkInPlace
  intro s g
  refine ⟨?inc, ?dec, fun u hu => ?others, ?frame, ⟨_, exec_pop s, rfl⟩, ⟨_, exec_push s, rfl⟩⟩
  case inc => simp [State.aluInc]
  case dec => simp [State.aluDec, BitVec.toNat_sub, Nat.add_comm]
  case others => simp [State.aluInc, State.aluDec, hu]
  case frame =>
    exact List.forall_mem_cons.2 ⟨s.setTarget_frame g _, List.forall_mem_singleton.2 (s.setTarget_frame g _)⟩

/-! ### CMP (R80) -/

/-- Settles O16: the flag is the equality of the two bytes. -/
theorem aluCmpWritesOnlyTheFlag : Obligations.AluCmpWritesOnlyTheFlag := by
  unfold Obligations.AluCmpWritesOnlyTheFlag
  intro s a b
  refine ⟨?iff, ?self, ⟨equalFlag (s.getReg a) (s.getReg b), rfl⟩, ⟨_, exec_cmp b s, rfl⟩⟩
  case iff => simp [equalFlag_eq, BitVec.toNat_inj]
  case self => simp [equalFlag_eq]

end Sys2Proof.Machine

/-! PROOFS: register selection and immediate load (spec/42_selector.md). -/

namespace Sys2Proof.Machine

/-! ### Where the pc and MAR stand (R69, R70) -/

/-- The advance as a number: addition modulo 256 (R22). -/
theorem advance_pc_toNat (s : State) (w : Nat) : (s.advance w).pc.toNat = (s.pc.toNat + w) % 256 := by
  simp

/-- The address of a first operand byte as a number (R40). -/
theorem operand1_mar_toNat (s : State) (b : Byte) : (s.operand1 b).mar.toNat = (s.pc.toNat + 1) % 256 :=
  BitVec.toNat_add s.pc 1#8

/-! ### INIT, SET and SAVE (R83 to R85) -/

/-- Settles O20: INIT is the selection of register 0 and the advance, as is SET 0 after its operand's `Load`. -/
theorem initSelectsRegisterZero : Obligations.InitSelectsRegisterZero := by
  unfold Obligations.InitSelectsRegisterZero
  intro s rest
  have hdec : decode (0x01#8 :: rest) = .ok (.init, rest) := decode_eq_ok_iff.2 rfl
  have hset : ∃ u, exec (.set 0x00#8) s = .next u ∧
      { u with pc := s.pc + 1#8, mar := s.mar, mdr := s.mdr } = (s.select 0x00#8).advance 1 :=
    ⟨_, exec_set 0x00#8 s, rfl⟩
  exact ⟨hdec, _, exec_init s, rfl, advance_pc_toNat _ 1, ⟨rfl, rfl⟩, fun _ _ => rfl, fun _ _ => rfl, rfl, rfl, rfl, rfl,
    hset⟩

/-- Settles O21. -/
theorem setSelectsTheRegister : Obligations.SetSelectsTheRegister := by
  unfold Obligations.SetSelectsTheRegister
  intro r s rest
  have hdec : decode (0x02#8 :: r :: rest) = .ok (.set r, rest) := decode_eq_ok_iff.2 rfl
  exact ⟨hdec, _, exec_set r s, rfl, advance_pc_toNat _ 2, operand1_mar_toNat s r, rfl, fun _ _ => rfl, fun _ _ => rfl,
    rfl, rfl, rfl, rfl⟩

/-- Settles O22: `x[cur]` reads as the immediate after the write, and it is SP when `cur` is 255; every other register is
kept as R16 says. -/
theorem saveWritesTheImmediate : Obligations.SaveWritesTheImmediate := by
  unfold Obligations.SaveWritesTheImmediate
  intro imm s rest
  have hdec : decode (0x04#8 :: imm :: rest) = .ok (.save imm, rest) := decode_eq_ok_iff.2 rfl
  have hreg : (s.afterExec (.save imm)).getReg s.cur = imm := by simp
  have hsp : s.cur = 0xFF#8 → (s.afterExec (.save imm)).sp = imm := fun hcur => by
    rw [hcur] at hreg
    exact hreg
  exact ⟨hdec, _, exec_eq_next (.save imm) s, hreg, hsp, advance_pc_toNat _ 2, operand1_mar_toNat s imm, rfl,
    afterExec_regsKept s (.save imm), afterExec_memKept s (.save imm), rfl, rfl, rfl, rfl, rfl⟩

end Sys2Proof.Machine

/-! PROOFS: arithmetic and compare (spec/43_arithmetic.md). -/

namespace Sys2Proof.Machine

/-! ### MUL and ADD (R86, R87) -/

/-- The address of a second operand byte as a number (R40). -/
theorem operands2_mar_toNat (s : State) (b1 b2 : Byte) : (s.operands2 b1 b2).mar.toNat = (s.pc.toNat + 2) % 256 :=
  BitVec.toNat_add s.pc 2#8

/-- Settles O23: the register holds the product of R77, and what the meaning keeps is what R16 and R35 say of it. -/
theorem mulStoresTheProduct : Obligations.MulStoresTheProduct := by
  unfold Obligations.MulStoresTheProduct
  intro r1 r2 s rest
  have hdec : decode (0x05#8 :: r1 :: r2 :: rest) = .ok (.mul r1 r2, rest) := decode_eq_ok_iff.2 rfl
  obtain ⟨-, hproduct, -, t, hexec, hreg⟩ := aluAddAndMulWrapModulo256 s r1 r2
  obtain rfl := afterExec_of_exec hexec
  exact ⟨hdec, _, hexec, hreg ▸ hproduct, advance_pc_toNat _ 3, operands2_mar_toNat s r1 r2, rfl,
    afterExec_regsKept s (.mul r1 r2), afterExec_memKept s (.mul r1 r2), rfl, rfl, rfl, rfl, rfl⟩

/-- Settles O24: the register holds the sum of R76, and what the meaning keeps is what R16 and R35 say of it. -/
theorem addStoresTheSum : Obligations.AddStoresTheSum := by
  unfold Obligations.AddStoresTheSum
  intro r1 r2 s rest
  have hdec : decode (0x0C#8 :: r1 :: r2 :: rest) = .ok (.add r1 r2, rest) := decode_eq_ok_iff.2 rfl
  obtain ⟨hsum, -, ⟨t, hexec, hreg⟩, -⟩ := aluAddAndMulWrapModulo256 s r1 r2
  obtain rfl := afterExec_of_exec hexec
  exact ⟨hdec, _, hexec, hreg ▸ hsum, advance_pc_toNat _ 3, operands2_mar_toNat s r1 r2, rfl,
    afterExec_regsKept s (.add r1 r2), afterExec_memKept s (.add r1 r2), rfl, rfl, rfl, rfl, rfl⟩

/-! ### CMP (R88) -/

/-- Settles O25: the flag is that of `ALU.CMP` on `cur` and the operand (R80), which with `r = cur` compares a byte with
itself. -/
theorem cmpSetsTheFlag : Obligations.CmpSetsTheFlag := by
  unfold Obligations.CmpSetsTheFlag
  intro r s rest
  have hdec : decode (0x16#8 :: r :: rest) = .ok (.cmp r, rest) := decode_eq_ok_iff.2 rfl
  obtain ⟨hflag, hself, -, -⟩ := aluCmpWritesOnlyTheFlag s s.cur r
  have hcur : r = s.cur → (s.aluCmp s.cur r).eq = true := fun h => h ▸ hself
  exact ⟨hdec, _, exec_cmp r s, hflag, hcur, advance_pc_toNat _ 2, operand1_mar_toNat s r, rfl, fun _ _ => rfl,
    fun _ _ => rfl, rfl, rfl, rfl, rfl⟩

end Sys2Proof.Machine

/-! PROOFS: loads and stores (spec/44_memory_access.md). -/

namespace Sys2Proof.Machine

/-! ### LD and ST (R89, R90) -/

/-- Settles O26: `x[cur]` reads as the byte loaded, and what the meaning keeps is what R16 and R35 say of it. -/
theorem ldLoadsTheByte : Obligations.LdLoadsTheByte := by
  unfold Obligations.LdLoadsTheByte
  intro a s rest
  have hdec : decode (0x08#8 :: a :: rest) = .ok (.ld a, rest) := decode_eq_ok_iff.2 rfl
  have hloaded : (s.afterExec (.ld a)).getReg s.cur = s.mem.read a := by simp
  exact ⟨hdec, _, exec_eq_next (.ld a) s, hloaded, advance_pc_toNat _ 2, rfl, rfl, afterExec_regsKept s (.ld a),
    afterExec_memKept s (.ld a), rfl, rfl, rfl, rfl, rfl⟩

/-- Settles O27: the byte at `a` reads as `x[cur]` after the store, by a fetch as by any other read; what the meaning keeps is
what R16 and R35 say of it. -/
theorem stStoresTheByte : Obligations.StStoresTheByte := by
  unfold Obligations.StStoresTheByte
  intro a s rest
  have hdec : decode (0x09#8 :: a :: rest) = .ok (.st a, rest) := decode_eq_ok_iff.2 rfl
  have hstored : (s.afterExec (.st a)).mem.read a = s.getReg s.cur := by simp
  exact ⟨hdec, _, exec_eq_next (.st a) s, hstored, afterExec_memKept s (.st a), advance_pc_toNat _ 2, rfl, rfl,
    afterExec_regsKept s (.st a), rfl, rfl, rfl, rfl, rfl, hstored⟩

/-! ### The round trip (R91) -/

/-- Two ticks are one step after another (R116). -/
theorem ticks_two {s t u : State} (hfirst : step s = .next t) (hsecond : step t = .next u) : ticks 2 s = .next u := by
  simp only [ticks, List.replicate, transactAll, transact, hfirst, hsecond]

/-- At the byte of an opcode the step executes the instruction at the pc, after the fetch (R66 to R69). -/
theorem step_eq_exec_of_byte {s : State} {o : Opcode} {i : Instr} (hrun : s.run = .running)
    (hop : s.mem.read s.pc = o.byte) (hinstr : s.instrAt o = i) : step s = exec i s.fetch := by
  rw [step_of_byte hrun hop, hinstr, exec_eq_next]

/-- Settles O28: the ST leaves the LD's two bytes as they were, so the LD executes next, and the byte it loads into `x[cur]` is
the one stored from `x[cur]`. -/
theorem stThenLdRestoresTheRegister : Obligations.StThenLdRestoresTheRegister := by
  unfold Obligations.StThenLdRestoresTheRegister
  intro s a hrun hst hstOperand hld hldOperand hneOp hneOperand
  obtain ⟨-, t, hexecSt, hstored, hmemT, hpcT, -, -, hregsT, hcurT, -, hrunT, -⟩ := stStoresTheByte a s.fetch []
  obtain ⟨-, u, hexecLd, hloaded, hpcU, -, -, hregsU, hmemU, hcurU, -, hrunU, -⟩ := ldLoadsTheByte a t.fetch []
  have hpc : t.pc = s.pc + 2#8 := BitVec.eq_of_toNat_eq (hpcT.trans (BitVec.toNat_add s.pc 2#8).symm)
  have hop : t.mem.read t.pc = 0x08#8 := by
    rw [hpc, hmemT _ (by simpa using hneOp.symm)]
    exact hld
  have hoperand : t.mem.read (t.pc + 1#8) = a := by
    rw [hpc, BitVec.add_assoc, hmemT _ (by simpa using hneOperand.symm)]
    exact hldOperand
  have hstepSt : step s = .next t :=
    (step_eq_exec_of_byte (o := .st) hrun hst (congrArg Instr.st hstOperand)).trans hexecSt
  have hstepLd : step t = .next u :=
    (step_eq_exec_of_byte (o := .ld) (hrunT.trans hrun) hop (congrArg Instr.ld hoperand)).trans hexecLd
  have hrestored : u.getReg s.cur = s.getReg s.cur := calc
    u.getReg s.cur = u.getReg t.cur := congrArg u.getReg hcurT.symm
    _ = t.mem.read a := hloaded
    _ = s.getReg s.cur := hstored
  have hregs : RegsKeptBut [] s u := by
    intro r _
    obtain rfl | hne := eq_or_ne r s.cur
    · exact hrestored
    · exact (hregsU r (by simpa [hcurT] using hne)).trans (hregsT r List.not_mem_nil)
  have hmem (b : Addr) : u.mem.read b = t.mem.read b := hmemU b List.not_mem_nil
  refine ⟨u, ticks_two hstepSt hstepLd, hrestored, hregs, (hmem a).trans hstored, fun b hb => (hmem b).trans (hmemT b hb),
    hcurU.trans hcurT, hrunU.trans (hrunT.trans hrun), ?pc⟩
  case pc =>
    simp only [State.fetch_pc] at hpcT hpcU
    omega

end Sys2Proof.Machine

/-! PROOFS: the stack (spec/45_stack.md). -/

namespace Sys2Proof.Machine

/-! ### PUSH and POP (R92, R93) -/

/-- The state in which PUSH stores has the decremented SP (R73). -/
theorem aluDec_spTarget_sp (s : State) : (s.aluDec State.spTarget).sp = s.sp - 1#8 := by simp

/-- The byte that PUSH stores: with `cur = 255` it is the SP already decremented (R12). -/
theorem aluDec_spTarget_getCur (s : State) :
    (s.aluDec State.spTarget).getCur = if s.cur = 0xFF#8 then s.sp - 1#8 else s.getReg s.cur := by
  simp [Config.spIndex]

/-- Settles O30: the decrement of R79 and the `Store` of R39; what the meaning keeps is what R16 and R35 say of it. -/
theorem pushStoresBelowTheStackPointer : Obligations.PushStoresBelowTheStackPointer := by
  unfold Obligations.PushStoresBelowTheStackPointer
  intro s rest
  have hdec : decode (0x0A#8 :: rest) = .ok (.push, rest) := decode_eq_ok_iff.2 rfl
  have hsp : (s.afterExec .push).sp.toNat = (s.sp.toNat + 255) % 256 := by
    rw [Nat.add_comm]
    exact (congrArg BitVec.toNat (aluDec_spTarget_sp s)).trans (BitVec.toNat_sub s.sp 1#8)
  have hstored : (s.afterExec .push).mem.read (s.sp - 1#8) = (s.aluDec State.spTarget).getCur := by simp
  exact ⟨hdec, _, exec_eq_next .push s, hsp, hstored.trans (aluDec_spTarget_getCur s), afterExec_memKept s .push,
    afterExec_regsKept s .push, aluDec_spTarget_sp s, aluDec_spTarget_getCur s, advance_pc_toNat _ 1, rfl, rfl, rfl, rfl,
    rfl⟩

/-- POP leaves SP one above the byte popped with `cur = 255`, else one above where it was (R93, R12). -/
theorem afterExec_pop_sp (s : State) :
    (s.afterExec .pop).sp = (if s.cur = 0xFF#8 then s.mem.read s.sp else s.sp) + 1#8 := by
  simp [Config.spIndex, eq_comm]

/-- Settles O31: the `Load` of R38 and the increment of R78; what the meaning keeps is what R16 and R35 say of it. -/
theorem popLoadsFromTheStackPointer : Obligations.PopLoadsFromTheStackPointer := by
  unfold Obligations.PopLoadsFromTheStackPointer
  intro s rest
  have hdec : decode (0x0B#8 :: rest) = .ok (.pop, rest) := decode_eq_ok_iff.2 rfl
  refine ⟨hdec, _, exec_eq_next .pop s, fun hcur => ⟨?popped, ?sp⟩, fun hcur => ?spIsCur, afterExec_regsKept s .pop,
    afterExec_memKept s .pop, rfl, rfl, advance_pc_toNat _ 1, rfl, rfl, rfl, rfl, rfl⟩
  case popped => simp [Config.spIndex, hcur]
  case sp =>
    rw [afterExec_pop_sp, if_neg hcur]
    exact BitVec.toNat_add s.sp 1#8
  case spIsCur =>
    rw [afterExec_pop_sp, if_pos hcur]
    exact BitVec.toNat_add _ 1#8

/-! ### The stack law (R94) -/

/-- Instructions executed one after the other leave what their meanings leave in turn: none of them stops (R103). -/
theorem execAll_eq_next (is : List Instr) (s : State) : execAll is s = .next (is.foldl State.afterExec s) := by
  induction is generalizing s with
  | nil => rfl
  | cons i is ih => simp only [execAll, exec_eq_next, ih, List.foldl_cons]

@[simp] theorem afterExec_set (s : State) (r : RegId) :
    s.afterExec (.set r) = ((s.operand1 r).select r).advance 2 := afterExec_of_exec (exec_set r s)

@[simp] theorem afterExec_prn (s : State) :
    s.afterExec .prn = (s.emit (.out (s.getReg s.cur))).advance 1 := afterExec_of_exec (exec_prn s)

/-- A PUSH of register `r`, selected by SET. -/
def State.pushReg (s : State) (r : RegId) : State := [.set r, .push].foldl State.afterExec s

/-- A POP into register `r`, selected by SET and then printed. -/
def State.popRegPrinting (s : State) (r : RegId) : State := [.set r, .pop, .prn].foldl State.afterExec s

theorem pushReg_sp (s : State) (r : RegId) : (s.pushReg r).sp = s.sp - 1#8 := by simp [State.pushReg]

@[simp] theorem pushReg_events (s : State) (r : RegId) : (s.pushReg r).events = s.events := rfl

theorem pushReg_getReg (s : State) (r : RegId) {q : RegId} (hq : q ≠ 0xFF#8) : (s.pushReg r).getReg q = s.getReg q := by
  simp [State.pushReg, Config.spIndex, hq]

theorem pushReg_mem_read_pushed (s : State) {r : RegId} (hr : r ≠ 0xFF#8) :
    (s.pushReg r).mem.read (s.sp - 1#8) = s.getReg r := by
  simp [State.pushReg, Config.spIndex, hr]

theorem pushReg_memKept (s : State) (r : RegId) : MemKeptBut [s.sp - 1#8] s (s.pushReg r) :=
  afterExec_memKept (s.afterExec (.set r)) .push

theorem popRegPrinting_sp (s : State) {r : RegId} (hr : r ≠ 0xFF#8) : (s.popRegPrinting r).sp = s.sp + 1#8 := by
  simp [State.popRegPrinting, Config.spIndex, hr.symm]

@[simp] theorem popRegPrinting_mem (s : State) (r : RegId) : (s.popRegPrinting r).mem = s.mem := rfl

theorem popRegPrinting_events (s : State) {r : RegId} (hr : r ≠ 0xFF#8) :
    (s.popRegPrinting r).events = s.events ++ [.out (s.mem.read s.sp)] := by
  simp [State.popRegPrinting, Config.spIndex, hr]

/-- What PUSHes of the bytes `vs` and as many printed POPs leave of a state: SP as it was, the bytes printed last first, and
every cell as it was but the `vs.length` cells below SP. -/
structure StackBalanced (vs : List Byte) (s t : State) : Prop where
  sp : t.sp = s.sp
  events : t.events = s.events ++ vs.reverse.map Event.out
  mem : ∀ a, vs.length ≤ (s.sp - 1#8 - a).toNat → t.mem.read a = s.mem.read a

/-- A PUSH and a POP around a balanced run of at most 255 bytes are a balanced run: the run stores only below the cell pushed,
so the POP finds the byte that the PUSH stored. -/
theorem StackBalanced.enclose {vs : List Byte} {s t : State} {r q : RegId} (h : StackBalanced vs (s.pushReg r) t)
    (hlen : vs.length < 256) (hr : r ≠ 0xFF#8) (hq : q ≠ 0xFF#8) :
    StackBalanced (s.getReg r :: vs) s (t.popRegPrinting q) := by
  obtain ⟨hsp, hevents, hmem⟩ := h
  rw [pushReg_sp] at hsp hmem
  have hpushed : t.mem.read (s.sp - 1#8) = s.getReg r := by
    rw [hmem _ (by bv_omega), pushReg_mem_read_pushed s hr]
  refine ⟨?sp, ?events, fun a ha => ?mem⟩
  case sp => rw [popRegPrinting_sp t hq, hsp, BitVec.sub_add_cancel]
  case events =>
    rw [popRegPrinting_events t hq, hsp, hpushed, hevents, pushReg_events]
    simp
  case mem =>
    rw [List.length_cons] at ha
    have hbelow : vs.length ≤ (s.sp - 1#8 - 1#8 - a).toNat := by bv_omega
    have hne : a ≠ s.sp - 1#8 := by
      rintro rfl
      simp at ha
    rw [popRegPrinting_mem, hmem a hbelow, pushReg_memKept s r a (by simpa using hne)]

/-- PUSHes and as many printed POPs nest: the first PUSH and the last POP stand around the others. -/
theorem pushAll_cons_append_popAllPrinting_concat (r q : RegId) (rs qs : List RegId) :
    pushAll (r :: rs) ++ popAllPrinting (qs ++ [q]) =
      [.set r, .push] ++ (pushAll rs ++ popAllPrinting qs) ++ [.set q, .pop, .prn] := by
  simp [pushAll, popAllPrinting]

/-- At most 256 PUSHes and as many printed POPs are balanced, by induction on the registers pushed. -/
theorem stackBalanced_pushAll_popAllPrinting {pushed popped : List RegId} (s : State) (hlen : pushed.length ≤ 256)
    (hpops : popped.length = pushed.length) (hpushed : ∀ r ∈ pushed, r ≠ 0xFF#8) (hpopped : ∀ r ∈ popped, r ≠ 0xFF#8) :
    StackBalanced (pushed.map s.getReg) s ((pushAll pushed ++ popAllPrinting popped).foldl State.afterExec s) := by
  induction pushed generalizing popped s with
  | nil =>
    obtain rfl : popped = [] := List.length_eq_zero_iff.1 hpops
    exact ⟨rfl, (List.append_nil _).symm, fun _ _ => rfl⟩
  | cons r rs ih =>
    obtain rfl | ⟨qs, q, rfl⟩ := List.eq_nil_or_concat' popped
    · cases hpops
    obtain ⟨hr, hrs⟩ := List.forall_mem_cons.1 hpushed
    obtain ⟨hqs, hq⟩ : (∀ p ∈ qs, p ≠ 0xFF#8) ∧ q ≠ 0xFF#8 := by simpa [or_imp, forall_and] using hpopped
    simp only [List.length_cons, List.length_append, List.length_nil] at hlen hpops
    have hrun := ih (s.pushReg r) (by omega) (by omega) hrs hqs
    have hkept : rs.map (s.pushReg r).getReg = rs.map s.getReg :=
      List.map_congr_left fun p hp => pushReg_getReg s r (hrs p hp)
    rw [hkept] at hrun
    rw [pushAll_cons_append_popAllPrinting_concat, List.foldl_append, List.foldl_append]
    exact hrun.enclose (by rw [List.length_map]; omega) hr hq

/-- Settles O33. -/
theorem stackLaw : Obligations.StackLaw := by
  unfold Obligations.StackLaw
  intro pushed popped s hlen hpops hpushed hpopped
  have h := stackBalanced_pushAll_popAllPrinting s hlen hpops hpushed hpopped
  exact ⟨_, execAll_eq_next _ s, h.sp, h.events⟩

end Sys2Proof.Machine

/-! PROOFS: control transfer and halt (spec/46_control.md). -/

namespace Sys2Proof.Machine

/-! ### A JMP to itself (R95, R74) -/

/-- The first of several ticks is one step, and the others start from the state it leaves (R116). -/
theorem ticks_succ {s t : State} (hstep : step s = .next t) (k : Nat) : ticks (k + 1) s = ticks k t := by
  simp only [ticks, List.replicate_succ, transactAll, transact, hstep]

/-- A state that is its own next state is the one left by any number of ticks. -/
theorem ticks_of_step_eq_self {s : State} (hstep : step s = .next s) (k : Nat) : ticks k s = .next s := by
  induction k with
  | zero => rfl
  | succ k ih => rw [ticks_succ hstep, ih]

/-- A tick at a JMP to its own address leaves only that operand's `Load` in MAR and MDR (R95). -/
theorem step_jmp_to_itself {s : State} (hrun : s.run = .running) (hop : s.mem.read s.pc = 0x11#8)
    (hoperand : s.mem.read (s.pc + 1#8) = s.pc) : step s = .next (s.operand1 s.pc) :=
  step_eq_exec_of_byte (o := .jmp) hrun hop (congrArg Instr.jmp hoperand)

/-- Settles O37: the first tick leaves a state that is its own next state. -/
theorem jmpToItselfNeverHalts : Obligations.JmpToItselfNeverHalts := by
  unfold Obligations.JmpToItselfNeverHalts
  intro s hrun hop hoperand k
  have hfirst : step s = .next (s.operand1 s.pc) := step_jmp_to_itself hrun hop hoperand
  have hagain : step (s.operand1 s.pc) = .next (s.operand1 s.pc) :=
    step_jmp_to_itself (s := s.operand1 s.pc) hrun hop hoperand
  cases k with
  | zero => exact ⟨s, rfl, hrun, rfl, rfl, fun _ _ => rfl⟩
  | succ k =>
    have hticks : ticks (k + 1) s = .next (s.operand1 s.pc) :=
      (ticks_succ hfirst k).trans (ticks_of_step_eq_self hagain k)
    exact ⟨_, hticks, hrun, rfl, rfl, fun _ _ => rfl⟩

/-! ### JMP and JEQ (R95, R96) -/

/-- Settles O34. -/
theorem jmpSetsThePc : Obligations.JmpSetsThePc := by
  unfold Obligations.JmpSetsThePc
  intro a s rest
  have hdec : decode (0x11#8 :: a :: rest) = .ok (.jmp a, rest) := decode_eq_ok_iff.2 rfl
  exact ⟨hdec, _, exec_jmp a s, rfl, operand1_mar_toNat s a, rfl, fun _ _ => rfl, fun _ _ => rfl, rfl, rfl, rfl, rfl, rfl⟩

/-- Settles O35, by the value of the flag; what the meaning keeps does not depend on it. -/
theorem jeqBranchesIffTheFlagIsSet : Obligations.JeqBranchesIffTheFlagIsSet := by
  unfold Obligations.JeqBranchesIffTheFlagIsSet
  intro a s rest
  have hdec : decode (0x13#8 :: a :: rest) = .ok (.jeq a, rest) := decode_eq_ok_iff.2 rfl
  refine ⟨hdec, _, exec_jeq a s, fun htaken => ?taken, fun hnot => ?notTaken, operand1_mar_toNat s a, rfl,
    fun _ _ => rfl, fun _ _ => rfl, rfl, rfl, rfl, rfl, rfl⟩
  case taken => simp [htaken]
  case notTaken => simp [hnot]

/-! ### HALT (R97) -/

/-- Settles O36: HALT writes the run state alone, a HALTED core's ticks change nothing (R65), and a tick at 0x00 is HALT's
meaning after the fetch of that byte (R67). -/
theorem haltStopsTheCore : Obligations.HaltStopsTheCore := by
  unfold Obligations.HaltStopsTheCore
  refine ⟨fun s rest => ?meaning, fun s hrun hop => ?tick⟩
  case meaning =>
    have hdec : decode (0x00#8 :: rest) = .ok (.halt, rest) := decode_eq_ok_iff.2 rfl
    obtain ⟨-, hticks⟩ := haltedTicksChangeNothing s.halt rfl
    exact ⟨hdec, _, exec_halt s, rfl, rfl, ⟨rfl, rfl⟩, fun hfault => ⟨rfl, hfault⟩, hticks, fun _ _ => rfl,
      fun _ _ => rfl, rfl, rfl, rfl, rfl⟩
  case tick =>
    have hstep : step s = .next s.fetch.halt := step_of_byte (o := .halt) hrun hop
    exact ⟨_, hstep, rfl, rfl, rfl, hop, rfl⟩

end Sys2Proof.Machine

/-! PROOFS: output (spec/47_output.md). -/

namespace Sys2Proof.Machine

/-! ### PRN (R99) -/

/-- Settles O38: PRN is the report of `x[cur]` and the advance. -/
theorem prnEmitsTheRegister : Obligations.PrnEmitsTheRegister := by
  unfold Obligations.PrnEmitsTheRegister
  intro s rest
  have hdec : decode (0x06#8 :: rest) = .ok (.prn, rest) := decode_eq_ok_iff.2 rfl
  exact ⟨hdec, _, exec_prn s, rfl, advance_pc_toNat _ 1, ⟨rfl, rfl⟩, fun _ _ => rfl, fun _ _ => rfl, rfl, rfl, rfl, rfl⟩

/-! ### The observation channel (R100) -/

/-- The state with another record of the channel (R13; log 2). -/
def State.setEvents (s : State) (es : List Event) : State := { s with events := es }

/-- No meaning reads the record: from a state that differs in it alone the same is done, and the same report is
added (R99). -/
theorem afterExec_setEvents (s : State) (es : List Event) (i : Instr) : (s.setEvents es).afterExec i =
    (s.afterExec i).setEvents (es ++ if i.opcode = .prn then [.out (s.getReg s.cur)] else []) := by
  have hfields : (s.setEvents es).afterExec i = (s.afterExec i).setEvents ((s.setEvents es).afterExec i).events := by
    cases i <;> rfl
  exact hfields.trans (congrArg _ (afterExec_events (s.setEvents es) i))

/-- The events that a tick reports: `Out(x[cur])` at the byte of PRN, `Err` at a byte without a handler, else none (R100). -/
def State.tickEvents (s : State) : List Event :=
  if s.run = .halted then []
  else if s.mem.read s.pc = Opcode.prn.byte then [.out (s.getReg s.cur)]
  else if dispatch (s.mem.read s.pc) = none then [.err (s.mem.read s.pc) s.pc]
  else []

theorem tickEvents_halted {s : State} (hrun : s.run = .halted) : s.tickEvents = [] := by
  simp [State.tickEvents, hrun]

theorem tickEvents_illegal {s : State} (hrun : s.run = .running) (hop : dispatch (s.mem.read s.pc) = none) :
    s.tickEvents = [.err (s.mem.read s.pc) s.pc] := by
  simp [State.tickEvents, hrun, hop, ne_byte_of_illegal hop .prn]

theorem tickEvents_byte {s : State} {o : Opcode} (hrun : s.run = .running) (hop : s.mem.read s.pc = o.byte) :
    s.tickEvents = if o = .prn then [.out (s.getReg s.cur)] else [] := by
  simp [State.tickEvents, hrun, hop, Opcode.byte_inj]

/-- A tick does not read the record: from a state that differs in it alone it does the same, and adds the same events to it. -/
theorem step_setEvents {s t : State} (hstep : step s = .next t) (es : List Event) :
    step (s.setEvents es) = .next (t.setEvents (es ++ s.tickEvents)) := by
  cases stepCase_of_step hstep with
  | halted hrun ht =>
    rw [step_halted (s := s.setEvents es) hrun, tickEvents_halted hrun, List.append_nil, ht]
  | illegal hrun hop ht =>
    rw [step_illegal (s := s.setEvents es) hrun hop, tickEvents_illegal hrun hop, ht]
    rfl
  | handler hrun o hop ht =>
    have hexec := afterExec_setEvents s.fetch es (s.instrAt o)
    rw [instrAt_opcode] at hexec
    rw [step_of_byte (s := s.setEvents es) hrun hop, tickEvents_byte hrun hop, ht]
    exact congrArg Host.Outcome.next hexec

/-- A tick adds its events to the record there was: the record of the same tick, from the state's own record. -/
theorem events_of_step {s t : State} (hstep : step s = .next t) : t.events = s.events ++ s.tickEvents := by
  have hsame : step s = .next (t.setEvents (s.events ++ s.tickEvents)) := step_setEvents hstep s.events
  obtain ht : t = t.setEvents (s.events ++ s.tickEvents) := by simpa [hstep] using hsame
  exact congrArg State.events ht

/-- Settles O39, by the events that each tick reports. -/
theorem eventsOfEachTick : Obligations.EventsOfEachTick := by
  unfold Obligations.EventsOfEachTick
  intro s
  obtain ⟨t, hstep, -⟩ := step_total s
  refine ⟨t, s.tickEvents, hstep, events_of_step hstep, tickEvents_halted, fun hrun hop => ?prn, tickEvents_illegal,
    fun hrun hne hhandled => ?other, step_setEvents hstep⟩
  case prn => exact tickEvents_byte (o := .prn) hrun hop
  case other =>
    obtain ⟨o, hop⟩ := (illegal_or_byte (s.mem.read s.pc)).resolve_left hhandled
    have hprn : o ≠ .prn := by
      rintro rfl
      exact hne hop
    rw [tickEvents_byte hrun hop, if_neg hprn]

end Sys2Proof.Machine

/-! PROOFS: exceptions and the host's events (spec/60_exceptions.md). -/

namespace Sys2Proof.Machine

/-! ### The invariant under the host's events (R115, R117, R118) -/

/-- A RUNNING core without a latch meets the invariant as soon as its memory is canonical: the other clauses speak of a
HALTED core. -/
theorem coreInv_of_running {s : State} (hmem : s.mem.wf) (hrun : s.run = .running) (hfault : s.fault = none) :
    CoreInv s where
  memCanonical := hmem
  latched d hd := by simp [hfault] at hd
  haltedNormally hend := by simp [State.endedNormally, hrun] at hend

/-- `HostWrite` keeps the invariant: it keeps memory canonical, and no other clause reads memory. -/
theorem CoreInv.hostWrite {s : State} (h : CoreInv s) (a : Addr) (v : Byte) : CoreInv (s.hostWrite a v) where
  memCanonical := Memory.wf_write h.memCanonical a v
  latched := h.latched
  haltedNormally := h.haltedNormally

/-- Settles O55, by the three events; the tick is the step. -/
theorem everyHostEventKeepsTheInvariant : Obligations.EveryHostEventKeepsTheInvariant := by
  unfold Obligations.EveryHostEventKeepsTheInvariant
  intro s t e hinv ht
  cases e with
  | reset =>
    obtain rfl : s.hostReset = t := by simpa [transact] using ht
    exact coreInv_of_running hinv.memCanonical rfl rfl
  | hostWrite a v =>
    obtain rfl : s.hostWrite a v = t := by simpa [transact] using ht
    exact hinv.hostWrite a v
  | tick => exact everyStepKeepsTheInvariant s t hinv ht

/-! ### DecodeError (R101 to R103, R106) -/

/-- A step changes the latch only where a RUNNING core fetched a byte without a handler (R101). -/
theorem illegal_of_step_fault_ne {s t : State} (hstep : step s = .next t) (hne : t.fault ≠ s.fault) :
    s.run = .running ∧ dispatch (s.mem.read s.pc) = none := by
  cases stepCase_of_step hstep with
  | halted _ ht => exact absurd (congrArg State.fault ht) hne
  | illegal hrun hop _ => exact ⟨hrun, hop⟩
  | handler _ _ _ ht =>
    have hkept : t.fault = s.fault := by simp [ht]
    exact absurd hkept hne

/-- Settles O7. -/
theorem onlyAnIllegalOpcodeIsAnException : Obligations.OnlyAnIllegalOpcodeIsAnException := by
  unfold Obligations.OnlyAnIllegalOpcodeIsAnException
  refine ⟨fun s => ?step, fun i s => ⟨s.afterExec i, exec_eq_next i s, afterExec_fault s i⟩⟩
  case step =>
    obtain ⟨t, hstep, -⟩ := step_total s
    exact ⟨t, hstep, illegal_of_step_fault_ne hstep⟩

/-- Settles O8: DecodeError writes three fields of the fetched state. -/
theorem decodeErrorIsPrecise : Obligations.DecodeErrorIsPrecise := by
  unfold Obligations.DecodeErrorIsPrecise
  exact fun _ hrun hop => step_illegal hrun hop

/-! ### HostWrite (R115) -/

theorem hostWrite_memKept (s : State) (a : Addr) (v : Byte) : MemKeptBut [a] s (s.hostWrite a v) := by
  intro b hb
  have hne : b ≠ a := by simpa using hb
  simp [hne]

/-- Settles O48: `HostWrite` is one memory write. -/
theorem hostWriteChangesOneCell : Obligations.HostWriteChangesOneCell := by
  unfold Obligations.HostWriteChangesOneCell
  intro s a v
  have hwritten : (s.hostWrite a v).mem.read a = v := by simp
  exact ⟨s.hostWrite a v, rfl, hwritten, hostWrite_memKept s a v, fun _ _ => rfl, ⟨rfl, rfl⟩, rfl, rfl, rfl, rfl, rfl, rfl⟩

end Sys2Proof.Machine

/-! PROOFS: reset and launch (spec/70_reset_and_hazards.md). -/

namespace Sys2Proof.Machine

/-! ### Reset by the host (R118, R119) -/

/-- Settles O47. -/
theorem hostResetKeepsMemory : Obligations.HostResetKeepsMemory := by
  unfold Obligations.HostResetKeepsMemory
  intro s
  exact ⟨s.hostReset, rfl, s.hostReset_getReg, rfl, rfl, rfl, rfl, rfl, rfl, rfl, fun _ _ => rfl, rfl⟩

/-! ### The launch image (R120) -/

/-- What a read finds after bytes were written from `a` upward: the byte at the read address's distance from `a`, modulo 256,
where there is one, else what memory held. No more than 256 bytes, so that none is written over another. -/
theorem hostWriteBytes_mem_read (s : State) (a b : Addr) {bs : List Byte} (hlen : bs.length ≤ 256) :
    (s.hostWriteBytes a bs).mem.read b = bs[(b - a).toNat]?.getD (s.mem.read b) := by
  induction bs generalizing s a with
  | nil => rfl
  | cons v vs ih =>
    have hvs : vs.length < 256 := by simpa using hlen
    rw [State.hostWriteBytes, ih (s.hostWrite a v) (a + 1#8) (by omega)]
    by_cases hb : b = a
    · have hlast : vs[(b - (a + 1#8)).toNat]? = none := List.getElem?_eq_none (by bv_omega)
      rw [hlast]
      simp [hb]
    · have hnext : (b - a).toNat = (b - (a + 1#8)).toNat + 1 := by bv_omega
      simp [hnext, hb]

/-- The launch state reads at each address the image's byte. -/
theorem launch_mem_read (memInit : Vector Byte 256) (a : Addr) :
    (State.launch memInit).mem.read a = memInit.get a.toFin := by
  rw [State.launch, hostWriteBytes_mem_read _ _ _ (by simp)]
  have ha : a.toNat < 256 := a.isLt
  simp [ha, Vector.get]

/-- The launch state is the reset state but for its memory. -/
theorem launch_eq_reset (memInit : Vector Byte 256) :
    State.launch memInit = { State.reset with mem := (State.launch memInit).mem } :=
  hostWriteBytes_eq State.reset 0x00#8 memInit.toList

/-- Settles O49. -/
theorem launchStateHoldsTheImage : Obligations.LaunchStateHoldsTheImage := by
  unfold Obligations.LaunchStateHoldsTheImage
  refine fun memInit => ⟨launch_mem_read memInit, ?frame⟩
  case frame =>
    rw [launch_eq_reset]
    rfl

/-! ### The invariant over the runs from launch -/

theorem coreInv_launch (memInit : Vector Byte 256) : CoreInv (State.launch memInit) := by
  have hmem : (State.launch memInit).mem.wf := hostWriteBytes_wf Memory.wf_nil _ _
  rw [launch_eq_reset]
  exact coreInv_of_running hmem rfl rfl

/-- Settles O51. -/
theorem launchMeetsTheInvariant : Obligations.LaunchMeetsTheInvariant := by
  unfold Obligations.LaunchMeetsTheInvariant
  exact ⟨coreInv_of_running Memory.wf_nil rfl rfl, coreInv_launch⟩

/-- Every host event answers a next state (log 4). -/
theorem transact_total (e : HostEvent) (s : State) : ∃ t, transact e s = .next t := by
  cases e with
  | reset => exact ⟨s.hostReset, rfl⟩
  | hostWrite a v => exact ⟨s.hostWrite a v, rfl⟩
  | tick =>
    obtain ⟨t, hstep, -⟩ := step_total s
    exact ⟨t, hstep⟩

/-- Any host events, in any order and number, lead from a state that meets the invariant to one that meets it. -/
theorem CoreInv.exists_transactAll {s : State} (h : CoreInv s) (es : List HostEvent) :
    ∃ t, transactAll es s = .next t ∧ CoreInv t := by
  induction es generalizing s with
  | nil => exact ⟨s, rfl, h⟩
  | cons e es ih =>
    obtain ⟨u, hu⟩ := transact_total e s
    simpa only [transactAll, hu] using ih (everyHostEventKeepsTheInvariant s u e h hu)

/-- Settles O53. -/
theorem everyHostLifecycleMeetsTheInvariant : Obligations.EveryHostLifecycleMeetsTheInvariant := by
  unfold Obligations.EveryHostLifecycleMeetsTheInvariant
  exact fun memInit es => (coreInv_launch memInit).exists_transactAll es

end Sys2Proof.Machine
